-- ==== Sys2Proof/Word.lean ====
section
/-!
DEFINITION. The widths of the hardware, named constants of spec/00_scope.md R7, and the word types made
of them (R8, R9). Register contents, data cells and instruction words are 32-bit patterns; a register
index is a 5-bit field. The signed reading s(v) of the spec is `BitVec.toInt`, the unsigned reading
u(v) is `BitVec.toNat`, and wrap(z) is `wrap`.
-/

namespace Sys2Proof

/-- XLEN, the width of a register and of a data cell (R7). -/
abbrev Config.xlen : Nat := 32

/-- ILEN, the width of an instruction, fixed (R7, R60). -/
abbrev Config.ilen : Nat := 32

/-- NREGS, the number of general registers (R7, R20). -/
abbrev Config.nregs : Nat := 32

/-- A 32-bit pattern: a register's contents, a data cell (XLEN bits), an instruction word (ILEN bits, as many) (R9). The
hardware has this one width, so the type spells it as a numeral; the two theorems below hold it to the named constants. -/
abbrev Word := BitVec 32

/-- Registers and data cells are XLEN bits wide (R7). -/
theorem word_is_xlen_bits : Word = BitVec Config.xlen := rfl

/-- Instruction words are ILEN bits wide (R7). -/
theorem word_is_ilen_bits : Word = BitVec Config.ilen := rfl

/-- The 5-bit index of a register, and the 5-bit rs2 field that the shifts use as an amount (R20, R61). -/
abbrev RegIdx := BitVec 5

/-- wrap(z): the Word congruent to the integer z modulo 2^32 (R9). -/
abbrev wrap (z : Int) : Word := BitVec.ofInt 32 z

end Sys2Proof
end

