-- ==== Sys2Proof/Config.lean ====
section
/-!
DEFINITION. The implementation parameters of spec/00_scope.md R7 and spec/92_eei_decisions.md, each a
named constant: XLEN, ILEN and NREGS stand in Word.lean, the others here. Nothing on this hardware is a free value (spec/93_implementation_defined.md, Part 1),
so no constant here is opaque.
-/

namespace Sys2Proof

namespace Config

/-- DMEM_WORDS, the number of data cells (R27, D6): 1024 in the reference configuration. Log entry 7. -/
def dmemWords : Nat := 1024

/-- DMEM_INIT, what a data cell holds before anything is stored to it (R33, R242, D7). The spec leaves it OPEN and
recommends all zero: DESIGN CHOICE, unsafe, log entry 6. `State.resetWith` is reset under any other contents. -/
def dmemInit (_cell : Nat) : Word := 0#32

/-- PC_STEP (R23). -/
def pcStep : Nat := 4

/-- PC_RESET, the entry point (R33, R240). -/
def pcReset : Nat := 0

/-- IMEM_BASE, the address of the first program word (R7, R28). -/
def imemBase : Nat := 0

/-- The bound on PROG_WORDS, the length of an image (R7, R200, D8). Log entry 9. -/
def progWordsMax : Nat := 2 ^ 29 - 1

/-! The counts of R7's last row. The machine's shape is what they say: one agent that steps, no mode, no interrupt
state and no control or status register in `State` (R24, R25, R227, R233, R236). -/

/-- The number of harts (R7, R236). -/
def numHarts : Nat := 1
/-- The number of privilege modes (R7, R233). -/
def numPrivilegeModes : Nat := 1
/-- The number of interrupt sources (R7, R227). -/
def numInterruptSources : Nat := 0
/-- The number of control and status registers (R7, R25). -/
def numCsrs : Nat := 0

/-! The opcode class constants (R7, R69, D1). 0x03 is the source's own and 0x13 follows from its example; the others are
PRESUMED by the spec from RV32I: unsafe, log entry 1. -/

/-- load, given by the source. -/
def opcLoad : BitVec 7 := 0x03#7
/-- immediate-ALU, given by the source's example word. -/
def opcOpImm : BitVec 7 := 0x13#7
/-- load-upper-immediate. -/
def opcLui : BitVec 7 := 0x37#7
/-- add-upper-immediate-to-pc. -/
def opcAuipc : BitVec 7 := 0x17#7
/-- jump-and-link. -/
def opcJal : BitVec 7 := 0x6F#7
/-- jump-and-link-register. -/
def opcJalr : BitVec 7 := 0x67#7
/-- branch. -/
def opcBranch : BitVec 7 := 0x63#7
/-- store. -/
def opcStore : BitVec 7 := 0x23#7
/-- register-ALU. -/
def opcOp : BitVec 7 := 0x33#7
/-- system-call, a class with no handling: it only names a row (R190). -/
def opcSystem : BitVec 7 := 0x73#7
/-- MISC-MEM: it only names a row (R191). -/
def opcMiscMem : BitVec 7 := 0x0F#7

/-- The two readings of the jump-and-link-register immediate (D2, C2): none, or RV32I's I layout. -/
inductive JalrImmLayout where
  | z
  | i
deriving DecidableEq, Repr

/-- The two readings of the store immediate (D20, C3): none, or RV32I's S layout. -/
inductive StoreImmLayout where
  | z
  | s
deriving DecidableEq, Repr

/-- JALR_IMM_LAYOUT, default Z (D2, U10): spec/90_conflicts.md C2 follows the decoder's contract. Log entry 2. -/
def jalrImmLayout : JalrImmLayout := .z

/-- STORE_IMM_LAYOUT, default Z (D20, U11): spec/90_conflicts.md C3 follows the decoder's contract. Log entry 3. -/
def storeImmLayout : StoreImmLayout := .z

end Config

end Sys2Proof
end

