-- ==== Sys2Proof/Syntax.lean ====
section
/-!
DEFINITION. The instructions: one constructor of `Instr` per row of spec/opcode_table.json, in the
order of spec/30_encoding.md R71, and the records the Instruction Decoder produces (R61, R79).

A constructor carries exactly the bits of the word that its row does not fix, the ignored ones too,
because the hardware publishes all six fields of every word (R61, log entry 23). Names of operands are
the spec's: `rd`, `rs1`, `rs2`, `funct3`, `funct7`; `shamt` is the rs2 FIELD used as a shift amount;
`imm5`, `imm12`, `imm20` are the raw immediate bits w[24:20], w[31:20], w[31:12]; `hi` is w[31:12]
where a row ignores all of it.
-/

namespace Sys2Proof

/-- The six fields every word is cut into, whatever its opcode (R61). -/
structure Fields where
  opcode : BitVec 7
  rd : RegIdx
  funct3 : BitVec 3
  rs1 : RegIdx
  rs2 : RegIdx
  funct7 : BitVec 7
deriving DecidableEq, Repr

/-- The Decoded Instruction record (R10, R30, R79): the six fields and the immediate Word. -/
structure Decoded where
  opcode : BitVec 7
  rd : RegIdx
  funct3 : BitVec 3
  rs1 : RegIdx
  rs2 : RegIdx
  funct7 : BitVec 7
  imm : Word
deriving DecidableEq, Repr

/-- One constructor per row of the opcode table (R71). -/
inductive Instr where
  -- upper-immediate and jump-and-link classes, R110 to R113
  | lui (rd : RegIdx) (imm20 : BitVec 20)
  | auipc (rd : RegIdx) (imm20 : BitVec 20)
  | jal (rd : RegIdx) (imm20 : BitVec 20)
  | jalr (rd rs1 : RegIdx) (funct3 : BitVec 3) (imm12 : BitVec 12)
  -- branch class, R120 to R127; `rd` is also immediate bits 4:1 and 11, `funct7` bits 12 and 10:5 (R66)
  | beq (rs1 rs2 rd : RegIdx) (funct7 : BitVec 7)
  | bne (rs1 rs2 rd : RegIdx) (funct7 : BitVec 7)
  | blt (rs1 rs2 rd : RegIdx) (funct7 : BitVec 7)
  | bge (rs1 rs2 rd : RegIdx) (funct7 : BitVec 7)
  | bltu (rs1 rs2 rd : RegIdx) (funct7 : BitVec 7)
  | bgeu (rs1 rs2 rd : RegIdx) (funct7 : BitVec 7)
  | branchF2 (rs1 rs2 rd : RegIdx) (funct7 : BitVec 7)
  | branchF3 (rs1 rs2 rd : RegIdx) (funct7 : BitVec 7)
  -- immediate-ALU class, R130 to R139
  | addi (rd rs1 : RegIdx) (imm5 : BitVec 5)
  | addiNz (rd rs1 : RegIdx) (imm12 : BitVec 12)
  | slli (rd rs1 shamt : RegIdx) (funct7 : BitVec 7)
  | slti (rd rs1 : RegIdx) (imm12 : BitVec 12)
  | sltiu (rd rs1 : RegIdx) (imm12 : BitVec 12)
  | xori (rd rs1 : RegIdx) (imm12 : BitVec 12)
  | srli (rd rs1 shamt : RegIdx)
  | srai (rd rs1 shamt : RegIdx) (funct7 : BitVec 7)
  | ori (rd rs1 : RegIdx) (imm12 : BitVec 12)
  | andi (rd rs1 : RegIdx) (imm12 : BitVec 12)
  -- register-ALU class, R145 to R154; `rs2` is the field, no row reads the register it names (R97)
  | add (rd rs1 rs2 : RegIdx)
  | sub (rd rs1 rs2 : RegIdx) (funct7 : BitVec 7)
  | sll (rd rs1 rs2 : RegIdx) (funct7 : BitVec 7)
  | slt (rd rs1 rs2 : RegIdx) (funct7 : BitVec 7)
  | sltu (rd rs1 rs2 : RegIdx) (funct7 : BitVec 7)
  | xor (rd rs1 rs2 : RegIdx) (funct7 : BitVec 7)
  | srl (rd rs1 rs2 : RegIdx)
  | sra (rd rs1 rs2 : RegIdx) (funct7 : BitVec 7)
  | or (rd rs1 rs2 : RegIdx) (funct7 : BitVec 7)
  | and (rd rs1 rs2 : RegIdx) (funct7 : BitVec 7)
  -- load class, R160 to R169
  | lb (rd rs1 : RegIdx) (imm5 : BitVec 5)
  | lbNz (rd rs1 : RegIdx) (imm12 : BitVec 12)
  | lh (rd rs1 shamt : RegIdx) (funct7 : BitVec 7)
  | lw (rd rs1 : RegIdx) (imm12 : BitVec 12)
  | loadF3 (rd rs1 : RegIdx) (imm12 : BitVec 12)
  | lbu (rd rs1 : RegIdx) (imm12 : BitVec 12)
  | lhu (rd rs1 shamt : RegIdx)
  | lhuNz (rd rs1 shamt : RegIdx) (funct7 : BitVec 7)
  | loadF6 (rd rs1 : RegIdx) (imm12 : BitVec 12)
  | loadF7 (rd rs1 : RegIdx) (imm12 : BitVec 12)
  -- store class, R175 to R184; `rd` is w[11:7], which no store row uses
  | sb (rs1 rs2 rd : RegIdx)
  | sbNz (rs1 rs2 rd : RegIdx) (funct7 : BitVec 7)
  | sh (rs1 rs2 rd : RegIdx) (funct7 : BitVec 7)
  | sw (rs1 rs2 rd : RegIdx) (funct7 : BitVec 7)
  | storeF3 (rs1 rs2 rd : RegIdx) (funct7 : BitVec 7)
  | storeF4 (rs1 rs2 rd : RegIdx) (funct7 : BitVec 7)
  | storeF5 (rs1 rs2 rd : RegIdx)
  | storeF5Nz (rs1 rs2 rd : RegIdx) (funct7 : BitVec 7)
  | storeF6 (rs1 rs2 rd : RegIdx) (funct7 : BitVec 7)
  | storeF7 (rs1 rs2 rd : RegIdx) (funct7 : BitVec 7)
  -- words of no recognised class, R190 to R192
  | system (rd : RegIdx) (hi : BitVec 20)
  | miscMem (rd : RegIdx) (hi : BitVec 20)
  | other (opcode : BitVec 7) (rd : RegIdx) (hi : BitVec 20)
deriving DecidableEq, Repr

end Sys2Proof
end

