-- ==== Sys2Proof/WellFormed.lean ====
section
/-!
DEFINITION. Which instruction terms are instructions of the hardware. Three kinds of check remain after
the field widths: the `funct7 != 0` rows of the five ALU-routed classes and funct3 0 and 5 (R72), whose
I-format ones have funct7 in the top bits of the immediate (R67), and the opcode of an OTHER word,
which must be none of the eleven that other rows claim (R192).
-/

namespace Sys2Proof

/-- The eleven opcode values that a row of the table other than OTHER claims (R192). -/
def namedOpcodes : List (BitVec 7) :=
  [Config.opcLui, Config.opcAuipc, Config.opcJal, Config.opcJalr, Config.opcBranch, Config.opcLoad,
   Config.opcStore, Config.opcOpImm, Config.opcOp, Config.opcSystem, Config.opcMiscMem]

/-- The instruction's operands satisfy its row's condition. -/
def Instr.wf : Instr → Bool
  | .addiNz _ _ imm12 => imm12.extractLsb' 5 7 != 0#7
  | .lbNz _ _ imm12 => imm12.extractLsb' 5 7 != 0#7
  | .srai _ _ _ funct7 => funct7 != 0#7
  | .sub _ _ _ funct7 => funct7 != 0#7
  | .sra _ _ _ funct7 => funct7 != 0#7
  | .lhuNz _ _ _ funct7 => funct7 != 0#7
  | .sbNz _ _ _ funct7 => funct7 != 0#7
  | .storeF5Nz _ _ _ funct7 => funct7 != 0#7
  | .other opcode _ _ => !namedOpcodes.contains opcode
  | .lui _ _ | .auipc _ _ | .jal _ _ | .jalr _ _ _ _ => true
  | .beq _ _ _ _ | .bne _ _ _ _ | .blt _ _ _ _ | .bge _ _ _ _ => true
  | .bltu _ _ _ _ | .bgeu _ _ _ _ | .branchF2 _ _ _ _ | .branchF3 _ _ _ _ => true
  | .addi _ _ _ | .slli _ _ _ _ | .slti _ _ _ | .sltiu _ _ _ | .xori _ _ _ | .srli _ _ _ => true
  | .ori _ _ _ | .andi _ _ _ => true
  | .add _ _ _ | .sll _ _ _ _ | .slt _ _ _ _ | .sltu _ _ _ _ | .xor _ _ _ _ | .srl _ _ _ => true
  | .or _ _ _ _ | .and _ _ _ _ => true
  | .lb _ _ _ | .lh _ _ _ _ | .lw _ _ _ | .loadF3 _ _ _ | .lbu _ _ _ | .lhu _ _ _ => true
  | .loadF6 _ _ _ | .loadF7 _ _ _ => true
  | .sb _ _ _ | .sh _ _ _ _ | .sw _ _ _ _ | .storeF3 _ _ _ _ | .storeF4 _ _ _ _ | .storeF5 _ _ _ => true
  | .storeF6 _ _ _ _ | .storeF7 _ _ _ _ => true
  | .system _ _ | .miscMem _ _ => true

end Sys2Proof
end

