-- ==== Sys2Proof/Decode.lean ====
section
/-!
DEFINITION. The Instruction Decoder (spec/30_encoding.md): the six fields (R61), the immediate
layouts (R62 to R68), the Decoded record (R79), the selection of a row of the opcode table (R71,
R72), the encoder, and the opcode table itself as masks and matches (R77). The decoder is total: every
one of the 2^32 words is an instruction (R70, R73), so nothing is rejected (log entry 14).
-/

namespace Sys2Proof

/-! ### Fields -/

/-- The six fields of a word (R61). -/
def fieldsOf (w : Word) : Fields where
  opcode := w.extractLsb' 0 7
  rd := w.extractLsb' 7 5
  funct3 := w.extractLsb' 12 3
  rs1 := w.extractLsb' 15 5
  rs2 := w.extractLsb' 20 5
  funct7 := w.extractLsb' 25 7

/-- The word made of six fields (R76). -/
def packFields (f : Fields) : Word :=
  f.funct7 ++ f.rs2 ++ f.rs1 ++ f.funct3 ++ f.rd ++ f.opcode

/-! ### Immediates as operands

Each function takes the raw immediate bits of the constructors of `Instr`. -/

/-- U layout: `imm20 ++ 0^12` (R64). -/
def immU (imm20 : BitVec 20) : Word := imm20 ++ 0#12

/-- I layout: the twelve bits sign-extended (R67). -/
def immI (imm12 : BitVec 12) : Word := imm12.signExtend 32

/-- The I layout when funct7 = 0: an immediate in 0 to 31 (R67, R130). -/
def immI5 (imm5 : BitVec 5) : Word := imm5.setWidth 32

/-- B layout: bits 12, 11, 10:5, 4:1 from w[31], w[7], w[30:25], w[11:8], that is from funct7 and rd; zero-extended,
never sign-extended (R66). -/
def immB (funct7 : BitVec 7) (rd : RegIdx) : Word :=
  (funct7.extractLsb' 6 1 ++ rd.extractLsb' 0 1 ++ funct7.extractLsb' 0 6 ++ rd.extractLsb' 1 4 ++ 0#1
    : BitVec 13).setWidth 32

/-- Z layout (R68). -/
def immZ : Word := 0#32

/-- The jump-and-link-register immediate under each reading of D2; the machine takes `Config.jalrImmLayout`. -/
def immJalrUnder (layout : Config.JalrImmLayout) (imm12 : BitVec 12) : Word :=
  match layout with
  | .z => immZ
  | .i => immI imm12

/-- The jump-and-link-register immediate (R68, R113). -/
def immJalr (imm12 : BitVec 12) : Word := immJalrUnder Config.jalrImmLayout imm12

/-- The store immediate under each reading of D20; the machine takes `Config.storeImmLayout`. -/
def immStoreUnder (layout : Config.StoreImmLayout) (funct7 : BitVec 7) (rd : RegIdx) : Word :=
  match layout with
  | .z => immZ
  | .s => immI (funct7 ++ rd)

/-- The store immediate (R68, spec/46_stores.md fact 1). -/
def immStore (funct7 : BitVec 7) (rd : RegIdx) : Word := immStoreUnder Config.storeImmLayout funct7 rd

/-! ### The Decoded record -/

/-- The single bit `w[i]` as a Word, 0 or 1 (R8). -/
def bitAt (w : Word) (i : Nat) : Word := (w.extractLsb' i 1).setWidth 32

/-- The bits `w[start + len - 1 : start]` as a Word (R8). -/
def bitsAt (w : Word) (start len : Nat) : Word := (w.extractLsb' start len).setWidth 32

/-- The immediate of a word, chosen by its opcode alone: the pseudocode of R79 (R63). -/
def immOf (w : Word) : Word :=
  let opcode := w.extractLsb' 0 7
  if opcode = Config.opcLui ∨ opcode = Config.opcAuipc then
    w &&& 0xFFFFF000#32
  else if opcode = Config.opcJal then
    (bitsAt w 21 10 <<< 1) ||| (bitAt w 20 <<< 11) ||| (bitsAt w 12 8 <<< 12) ||| (bitAt w 31 <<< 20)
  else if opcode = Config.opcBranch then
    (bitsAt w 8 4 <<< 1) ||| (bitsAt w 25 6 <<< 5) ||| (bitAt w 7 <<< 11) ||| (bitAt w 31 <<< 12)
  else if opcode = Config.opcLoad ∨ opcode = Config.opcOpImm then
    (w.extractLsb' 20 12).signExtend 32
  else if opcode = Config.opcJalr then
    immJalr (w.extractLsb' 20 12)
  else if opcode = Config.opcStore then
    immStore (w.extractLsb' 25 7) (w.extractLsb' 7 5)
  else
    0#32

/-- The whole Instruction Decoder as one function from a word to the seven-field record (R79). -/
def decodeRecord (w : Word) : Decoded where
  opcode := w.extractLsb' 0 7
  rd := w.extractLsb' 7 5
  funct3 := w.extractLsb' 12 3
  rs1 := w.extractLsb' 15 5
  rs2 := w.extractLsb' 20 5
  funct7 := w.extractLsb' 25 7
  imm := immOf w

/-! ### Selecting the instruction: opcode, then funct3, then the zero test on funct7 (R71, R72) -/

/-- w[31:20], from the fields. -/
def Fields.imm12 (f : Fields) : BitVec 12 := f.funct7 ++ f.rs2

/-- w[31:12], from the fields. -/
def Fields.imm20 (f : Fields) : BitVec 20 := f.funct7 ++ f.rs2 ++ f.rs1 ++ f.funct3

/-- The branch class by funct3 (R71). -/
def selectBranch (f : Fields) : Instr :=
  if f.funct3 = 0#3 then .beq f.rs1 f.rs2 f.rd f.funct7
  else if f.funct3 = 1#3 then .bne f.rs1 f.rs2 f.rd f.funct7
  else if f.funct3 = 2#3 then .branchF2 f.rs1 f.rs2 f.rd f.funct7
  else if f.funct3 = 3#3 then .branchF3 f.rs1 f.rs2 f.rd f.funct7
  else if f.funct3 = 4#3 then .blt f.rs1 f.rs2 f.rd f.funct7
  else if f.funct3 = 5#3 then .bge f.rs1 f.rs2 f.rd f.funct7
  else if f.funct3 = 6#3 then .bltu f.rs1 f.rs2 f.rd f.funct7
  else .bgeu f.rs1 f.rs2 f.rd f.funct7

/-- The immediate-ALU class by funct3 and the zero test on funct7 (R71, R72). -/
def selectOpImm (f : Fields) : Instr :=
  if f.funct3 = 0#3 then
    if f.funct7 = 0#7 then .addi f.rd f.rs1 f.rs2 else .addiNz f.rd f.rs1 f.imm12
  else if f.funct3 = 1#3 then .slli f.rd f.rs1 f.rs2 f.funct7
  else if f.funct3 = 2#3 then .slti f.rd f.rs1 f.imm12
  else if f.funct3 = 3#3 then .sltiu f.rd f.rs1 f.imm12
  else if f.funct3 = 4#3 then .xori f.rd f.rs1 f.imm12
  else if f.funct3 = 5#3 then
    if f.funct7 = 0#7 then .srli f.rd f.rs1 f.rs2 else .srai f.rd f.rs1 f.rs2 f.funct7
  else if f.funct3 = 6#3 then .ori f.rd f.rs1 f.imm12
  else .andi f.rd f.rs1 f.imm12

/-- The register-ALU class by funct3 and the zero test on funct7 (R71, R72). -/
def selectOp (f : Fields) : Instr :=
  if f.funct3 = 0#3 then
    if f.funct7 = 0#7 then .add f.rd f.rs1 f.rs2 else .sub f.rd f.rs1 f.rs2 f.funct7
  else if f.funct3 = 1#3 then .sll f.rd f.rs1 f.rs2 f.funct7
  else if f.funct3 = 2#3 then .slt f.rd f.rs1 f.rs2 f.funct7
  else if f.funct3 = 3#3 then .sltu f.rd f.rs1 f.rs2 f.funct7
  else if f.funct3 = 4#3 then .xor f.rd f.rs1 f.rs2 f.funct7
  else if f.funct3 = 5#3 then
    if f.funct7 = 0#7 then .srl f.rd f.rs1 f.rs2 else .sra f.rd f.rs1 f.rs2 f.funct7
  else if f.funct3 = 6#3 then .or f.rd f.rs1 f.rs2 f.funct7
  else .and f.rd f.rs1 f.rs2 f.funct7

/-- The load class by funct3 and the zero test on funct7 (R71, R72). -/
def selectLoad (f : Fields) : Instr :=
  if f.funct3 = 0#3 then
    if f.funct7 = 0#7 then .lb f.rd f.rs1 f.rs2 else .lbNz f.rd f.rs1 f.imm12
  else if f.funct3 = 1#3 then .lh f.rd f.rs1 f.rs2 f.funct7
  else if f.funct3 = 2#3 then .lw f.rd f.rs1 f.imm12
  else if f.funct3 = 3#3 then .loadF3 f.rd f.rs1 f.imm12
  else if f.funct3 = 4#3 then .lbu f.rd f.rs1 f.imm12
  else if f.funct3 = 5#3 then
    if f.funct7 = 0#7 then .lhu f.rd f.rs1 f.rs2 else .lhuNz f.rd f.rs1 f.rs2 f.funct7
  else if f.funct3 = 6#3 then .loadF6 f.rd f.rs1 f.imm12
  else .loadF7 f.rd f.rs1 f.imm12

/-- The store class by funct3 and the zero test on funct7 (R71, R72). -/
def selectStore (f : Fields) : Instr :=
  if f.funct3 = 0#3 then
    if f.funct7 = 0#7 then .sb f.rs1 f.rs2 f.rd else .sbNz f.rs1 f.rs2 f.rd f.funct7
  else if f.funct3 = 1#3 then .sh f.rs1 f.rs2 f.rd f.funct7
  else if f.funct3 = 2#3 then .sw f.rs1 f.rs2 f.rd f.funct7
  else if f.funct3 = 3#3 then .storeF3 f.rs1 f.rs2 f.rd f.funct7
  else if f.funct3 = 4#3 then .storeF4 f.rs1 f.rs2 f.rd f.funct7
  else if f.funct3 = 5#3 then
    if f.funct7 = 0#7 then .storeF5 f.rs1 f.rs2 f.rd else .storeF5Nz f.rs1 f.rs2 f.rd f.funct7
  else if f.funct3 = 6#3 then .storeF6 f.rs1 f.rs2 f.rd f.funct7
  else .storeF7 f.rs1 f.rs2 f.rd f.funct7

/-- The instruction that six fields stand for (R71). -/
def selectInstr (f : Fields) : Instr :=
  if f.opcode = Config.opcLui then .lui f.rd f.imm20
  else if f.opcode = Config.opcAuipc then .auipc f.rd f.imm20
  else if f.opcode = Config.opcJal then .jal f.rd f.imm20
  else if f.opcode = Config.opcJalr then .jalr f.rd f.rs1 f.funct3 f.imm12
  else if f.opcode = Config.opcBranch then selectBranch f
  else if f.opcode = Config.opcOpImm then selectOpImm f
  else if f.opcode = Config.opcOp then selectOp f
  else if f.opcode = Config.opcLoad then selectLoad f
  else if f.opcode = Config.opcStore then selectStore f
  else if f.opcode = Config.opcSystem then .system f.rd f.imm20
  else if f.opcode = Config.opcMiscMem then .miscMem f.rd f.imm20
  else .other f.opcode f.rd f.imm20

/-- The instruction a word is: total on all 2^32 words (R70). -/
def decode (w : Word) : Instr := selectInstr (fieldsOf w)

/-! ### The encoder -/

/-- Fields of an instruction whose class ignores nothing below w[31:12]: U and J formats and unrecognised words. -/
def fieldsHi (opcode : BitVec 7) (rd : RegIdx) (hi : BitVec 20) : Fields where
  opcode := opcode
  rd := rd
  funct3 := hi.extractLsb' 0 3
  rs1 := hi.extractLsb' 3 5
  rs2 := hi.extractLsb' 8 5
  funct7 := hi.extractLsb' 13 7

/-- funct7 of an I-format immediate: its top seven bits (R67). -/
def immFunct7 (imm12 : BitVec 12) : BitVec 7 := imm12.extractLsb' 5 7

/-- Fields of an I-format instruction with its twelve immediate bits. -/
def fieldsI (opcode : BitVec 7) (funct3 : BitVec 3) (rd rs1 : RegIdx) (imm12 : BitVec 12) : Fields where
  opcode := opcode
  rd := rd
  funct3 := funct3
  rs1 := rs1
  rs2 := imm12.extractLsb' 0 5
  funct7 := immFunct7 imm12

/-- Fields of an instruction given register by register. -/
def fieldsR (opcode : BitVec 7) (funct3 : BitVec 3) (rd rs1 rs2 : RegIdx) (funct7 : BitVec 7) : Fields where
  opcode := opcode
  rd := rd
  funct3 := funct3
  rs1 := rs1
  rs2 := rs2
  funct7 := funct7

/-- The six fields of an instruction's word, from the encodings of R110 to R192. -/
def instrFields : Instr → Fields
  | .lui rd imm20 => fieldsHi Config.opcLui rd imm20
  | .auipc rd imm20 => fieldsHi Config.opcAuipc rd imm20
  | .jal rd imm20 => fieldsHi Config.opcJal rd imm20
  | .jalr rd rs1 funct3 imm12 => fieldsI Config.opcJalr funct3 rd rs1 imm12
  | .beq rs1 rs2 rd funct7 => fieldsR Config.opcBranch 0#3 rd rs1 rs2 funct7
  | .bne rs1 rs2 rd funct7 => fieldsR Config.opcBranch 1#3 rd rs1 rs2 funct7
  | .blt rs1 rs2 rd funct7 => fieldsR Config.opcBranch 4#3 rd rs1 rs2 funct7
  | .bge rs1 rs2 rd funct7 => fieldsR Config.opcBranch 5#3 rd rs1 rs2 funct7
  | .bltu rs1 rs2 rd funct7 => fieldsR Config.opcBranch 6#3 rd rs1 rs2 funct7
  | .bgeu rs1 rs2 rd funct7 => fieldsR Config.opcBranch 7#3 rd rs1 rs2 funct7
  | .branchF2 rs1 rs2 rd funct7 => fieldsR Config.opcBranch 2#3 rd rs1 rs2 funct7
  | .branchF3 rs1 rs2 rd funct7 => fieldsR Config.opcBranch 3#3 rd rs1 rs2 funct7
  | .addi rd rs1 imm5 => fieldsR Config.opcOpImm 0#3 rd rs1 imm5 0#7
  | .addiNz rd rs1 imm12 => fieldsI Config.opcOpImm 0#3 rd rs1 imm12
  | .slli rd rs1 shamt funct7 => fieldsR Config.opcOpImm 1#3 rd rs1 shamt funct7
  | .slti rd rs1 imm12 => fieldsI Config.opcOpImm 2#3 rd rs1 imm12
  | .sltiu rd rs1 imm12 => fieldsI Config.opcOpImm 3#3 rd rs1 imm12
  | .xori rd rs1 imm12 => fieldsI Config.opcOpImm 4#3 rd rs1 imm12
  | .srli rd rs1 shamt => fieldsR Config.opcOpImm 5#3 rd rs1 shamt 0#7
  | .srai rd rs1 shamt funct7 => fieldsR Config.opcOpImm 5#3 rd rs1 shamt funct7
  | .ori rd rs1 imm12 => fieldsI Config.opcOpImm 6#3 rd rs1 imm12
  | .andi rd rs1 imm12 => fieldsI Config.opcOpImm 7#3 rd rs1 imm12
  | .add rd rs1 rs2 => fieldsR Config.opcOp 0#3 rd rs1 rs2 0#7
  | .sub rd rs1 rs2 funct7 => fieldsR Config.opcOp 0#3 rd rs1 rs2 funct7
  | .sll rd rs1 rs2 funct7 => fieldsR Config.opcOp 1#3 rd rs1 rs2 funct7
  | .slt rd rs1 rs2 funct7 => fieldsR Config.opcOp 2#3 rd rs1 rs2 funct7
  | .sltu rd rs1 rs2 funct7 => fieldsR Config.opcOp 3#3 rd rs1 rs2 funct7
  | .xor rd rs1 rs2 funct7 => fieldsR Config.opcOp 4#3 rd rs1 rs2 funct7
  | .srl rd rs1 rs2 => fieldsR Config.opcOp 5#3 rd rs1 rs2 0#7
  | .sra rd rs1 rs2 funct7 => fieldsR Config.opcOp 5#3 rd rs1 rs2 funct7
  | .or rd rs1 rs2 funct7 => fieldsR Config.opcOp 6#3 rd rs1 rs2 funct7
  | .and rd rs1 rs2 funct7 => fieldsR Config.opcOp 7#3 rd rs1 rs2 funct7
  | .lb rd rs1 imm5 => fieldsR Config.opcLoad 0#3 rd rs1 imm5 0#7
  | .lbNz rd rs1 imm12 => fieldsI Config.opcLoad 0#3 rd rs1 imm12
  | .lh rd rs1 shamt funct7 => fieldsR Config.opcLoad 1#3 rd rs1 shamt funct7
  | .lw rd rs1 imm12 => fieldsI Config.opcLoad 2#3 rd rs1 imm12
  | .loadF3 rd rs1 imm12 => fieldsI Config.opcLoad 3#3 rd rs1 imm12
  | .lbu rd rs1 imm12 => fieldsI Config.opcLoad 4#3 rd rs1 imm12
  | .lhu rd rs1 shamt => fieldsR Config.opcLoad 5#3 rd rs1 shamt 0#7
  | .lhuNz rd rs1 shamt funct7 => fieldsR Config.opcLoad 5#3 rd rs1 shamt funct7
  | .loadF6 rd rs1 imm12 => fieldsI Config.opcLoad 6#3 rd rs1 imm12
  | .loadF7 rd rs1 imm12 => fieldsI Config.opcLoad 7#3 rd rs1 imm12
  | .sb rs1 rs2 rd => fieldsR Config.opcStore 0#3 rd rs1 rs2 0#7
  | .sbNz rs1 rs2 rd funct7 => fieldsR Config.opcStore 0#3 rd rs1 rs2 funct7
  | .sh rs1 rs2 rd funct7 => fieldsR Config.opcStore 1#3 rd rs1 rs2 funct7
  | .sw rs1 rs2 rd funct7 => fieldsR Config.opcStore 2#3 rd rs1 rs2 funct7
  | .storeF3 rs1 rs2 rd funct7 => fieldsR Config.opcStore 3#3 rd rs1 rs2 funct7
  | .storeF4 rs1 rs2 rd funct7 => fieldsR Config.opcStore 4#3 rd rs1 rs2 funct7
  | .storeF5 rs1 rs2 rd => fieldsR Config.opcStore 5#3 rd rs1 rs2 0#7
  | .storeF5Nz rs1 rs2 rd funct7 => fieldsR Config.opcStore 5#3 rd rs1 rs2 funct7
  | .storeF6 rs1 rs2 rd funct7 => fieldsR Config.opcStore 6#3 rd rs1 rs2 funct7
  | .storeF7 rs1 rs2 rd funct7 => fieldsR Config.opcStore 7#3 rd rs1 rs2 funct7
  | .system rd hi => fieldsHi Config.opcSystem rd hi
  | .miscMem rd hi => fieldsHi Config.opcMiscMem rd hi
  | .other opcode rd hi => fieldsHi opcode rd hi

/-- The word of an instruction: its six fields in their places (R61, R76). -/
def encode (i : Instr) : Word := packFields (instrFields i)

/-! ### The opcode table as masks and matches (R77) -/

/-- The row's mnemonic, as spec/opcode_table.json spells it. -/
def mnemonicOf : Instr → String
  | .lui _ _ => "LUI"
  | .auipc _ _ => "AUIPC"
  | .jal _ _ => "JAL"
  | .jalr _ _ _ _ => "JALR"
  | .beq _ _ _ _ => "BEQ"
  | .bne _ _ _ _ => "BNE"
  | .blt _ _ _ _ => "BLT"
  | .bge _ _ _ _ => "BGE"
  | .bltu _ _ _ _ => "BLTU"
  | .bgeu _ _ _ _ => "BGEU"
  | .branchF2 _ _ _ _ => "BRANCH.F2"
  | .branchF3 _ _ _ _ => "BRANCH.F3"
  | .addi _ _ _ => "ADDI"
  | .addiNz _ _ _ => "ADDI.NZ"
  | .slli _ _ _ _ => "SLLI"
  | .slti _ _ _ => "SLTI"
  | .sltiu _ _ _ => "SLTIU"
  | .xori _ _ _ => "XORI"
  | .srli _ _ _ => "SRLI"
  | .srai _ _ _ _ => "SRAI"
  | .ori _ _ _ => "ORI"
  | .andi _ _ _ => "ANDI"
  | .add _ _ _ => "ADD"
  | .sub _ _ _ _ => "SUB"
  | .sll _ _ _ _ => "SLL"
  | .slt _ _ _ _ => "SLT"
  | .sltu _ _ _ _ => "SLTU"
  | .xor _ _ _ _ => "XOR"
  | .srl _ _ _ => "SRL"
  | .sra _ _ _ _ => "SRA"
  | .or _ _ _ _ => "OR"
  | .and _ _ _ _ => "AND"
  | .lb _ _ _ => "LB"
  | .lbNz _ _ _ => "LB.NZ"
  | .lh _ _ _ _ => "LH"
  | .lw _ _ _ => "LW"
  | .loadF3 _ _ _ => "LOAD.F3"
  | .lbu _ _ _ => "LBU"
  | .lhu _ _ _ => "LHU"
  | .lhuNz _ _ _ _ => "LHU.NZ"
  | .loadF6 _ _ _ => "LOAD.F6"
  | .loadF7 _ _ _ => "LOAD.F7"
  | .sb _ _ _ => "SB"
  | .sbNz _ _ _ _ => "SB.NZ"
  | .sh _ _ _ _ => "SH"
  | .sw _ _ _ _ => "SW"
  | .storeF3 _ _ _ _ => "STORE.F3"
  | .storeF4 _ _ _ _ => "STORE.F4"
  | .storeF5 _ _ _ => "STORE.F5"
  | .storeF5Nz _ _ _ _ => "STORE.F5.NZ"
  | .storeF6 _ _ _ _ => "STORE.F6"
  | .storeF7 _ _ _ _ => "STORE.F7"
  | .system _ _ => "SYSTEM"
  | .miscMem _ _ => "MISC-MEM"
  | .other _ _ _ => "OTHER"

/-- A row of the opcode table: mnemonic, mask, match. -/
abbrev TableRow := String × Word × Word

/-- The word has the row's fixed bits: `(w & mask) == match`. -/
def rowMatches (w : Word) (row : TableRow) : Bool := w &&& row.2.1 == row.2.2

def rowsUpperJump : List TableRow :=
  [("LUI", 0x7F#32, 0x37#32), ("AUIPC", 0x7F#32, 0x17#32), ("JAL", 0x7F#32, 0x6F#32), ("JALR", 0x7F#32, 0x67#32)]

def rowsBranch : List TableRow :=
  [("BEQ", 0x707F#32, 0x63#32), ("BNE", 0x707F#32, 0x1063#32), ("BLT", 0x707F#32, 0x4063#32),
   ("BGE", 0x707F#32, 0x5063#32), ("BLTU", 0x707F#32, 0x6063#32), ("BGEU", 0x707F#32, 0x7063#32),
   ("BRANCH.F2", 0x707F#32, 0x2063#32), ("BRANCH.F3", 0x707F#32, 0x3063#32)]

def rowsOpImm : List TableRow :=
  [("ADDI", 0xFE00707F#32, 0x13#32), ("ADDI.NZ", 0x707F#32, 0x13#32), ("SLLI", 0x707F#32, 0x1013#32),
   ("SLTI", 0x707F#32, 0x2013#32), ("SLTIU", 0x707F#32, 0x3013#32), ("XORI", 0x707F#32, 0x4013#32),
   ("SRLI", 0xFE00707F#32, 0x5013#32), ("SRAI", 0x707F#32, 0x5013#32), ("ORI", 0x707F#32, 0x6013#32),
   ("ANDI", 0x707F#32, 0x7013#32)]

def rowsOp : List TableRow :=
  [("ADD", 0xFE00707F#32, 0x33#32), ("SUB", 0x707F#32, 0x33#32), ("SLL", 0x707F#32, 0x1033#32),
   ("SLT", 0x707F#32, 0x2033#32), ("SLTU", 0x707F#32, 0x3033#32), ("XOR", 0x707F#32, 0x4033#32),
   ("SRL", 0xFE00707F#32, 0x5033#32), ("SRA", 0x707F#32, 0x5033#32), ("OR", 0x707F#32, 0x6033#32),
   ("AND", 0x707F#32, 0x7033#32)]

def rowsLoad : List TableRow :=
  [("LB", 0xFE00707F#32, 0x03#32), ("LB.NZ", 0x707F#32, 0x03#32), ("LH", 0x707F#32, 0x1003#32),
   ("LW", 0x707F#32, 0x2003#32), ("LOAD.F3", 0x707F#32, 0x3003#32), ("LBU", 0x707F#32, 0x4003#32),
   ("LHU", 0xFE00707F#32, 0x5003#32), ("LHU.NZ", 0x707F#32, 0x5003#32), ("LOAD.F6", 0x707F#32, 0x6003#32),
   ("LOAD.F7", 0x707F#32, 0x7003#32)]

def rowsStore : List TableRow :=
  [("SB", 0xFE00707F#32, 0x23#32), ("SB.NZ", 0x707F#32, 0x23#32), ("SH", 0x707F#32, 0x1023#32),
   ("SW", 0x707F#32, 0x2023#32), ("STORE.F3", 0x707F#32, 0x3023#32), ("STORE.F4", 0x707F#32, 0x4023#32),
   ("STORE.F5", 0xFE00707F#32, 0x5023#32), ("STORE.F5.NZ", 0x707F#32, 0x5023#32), ("STORE.F6", 0x707F#32, 0x6023#32),
   ("STORE.F7", 0x707F#32, 0x7023#32)]

def rowsUnrecognised : List TableRow :=
  [("SYSTEM", 0x7F#32, 0x73#32), ("MISC-MEM", 0x7F#32, 0x0F#32), ("OTHER", 0x00#32, 0x00#32)]

/-- spec/opcode_table.json, in its priority order (R77). -/
def opcodeTable : List TableRow :=
  rowsUpperJump ++ rowsBranch ++ rowsOpImm ++ rowsOp ++ rowsLoad ++ rowsStore ++ rowsUnrecognised

/-- The first row whose `(w & mask) == match` holds (R77). -/
def firstRow (w : Word) : Option TableRow := opcodeTable.find? (rowMatches w)

/-! ### The host's question -/

/-- The instruction read from a word numbered as spec/opcode_table.json numbers it. Every instruction is one 32-bit word
(R60), so more than 32 bits is none. -/
def decodeTableWord (nbits w : Nat) : Option Instr :=
  if nbits ≤ Config.ilen then some (decode (BitVec.ofNat Config.ilen (w % 2 ^ nbits))) else none

end Sys2Proof
end

