-- ==== Sys2Proof/Machine/State.lean ====
section
/-!
DEFINITION. The machine state (spec/10_state.md), closed by R32: the registers, the program counter,
the data memory, the run state, the program image and the published snapshot, all plain data; the
reasons a step or a host call can stop; the reset state (R33, R240).
-/

namespace Sys2Proof.Machine

/-- The sequencer's state (R29). Halted and Faulted are terminal; Faulted carries the offending address Word. -/
inductive RunState where
  | running
  | halted
  | faulted (a : Word)
deriving DecidableEq, Repr

/-- Data memory: the cells that differ from `Config.dmemInit`, as (cell index, Word) pairs, cell indices strictly rising.
The data space's addressable unit is the whole 32-bit cell, no byte of it has an address (R41, R44, R45; log entry 8). -/
abbrev Memory := List (Nat × Word)

/-- The record published to the host after an executed step (R31, R204). -/
structure Snapshot where
  /-- all 32 registers after the step's writeback -/
  regs : Vector Word Config.nregs
  /-- the step's decoded record -/
  dec : Decoded
  /-- the address the word was fetched from -/
  pc : Nat
  /-- the fetched instruction word -/
  word : Word
  /-- the register the step wrote; none for a store step (D12) -/
  lastWritten : Option RegIdx
deriving DecidableEq, Repr

/-- What the core emits to the host in a step (R204, R205). -/
inductive Notification where
  /-- emitted once by every executed step, with the published record -/
  | perStep (p : Snapshot)
  /-- emitted by the step that goes from Running to Halted; carries nothing -/
  | completion
deriving DecidableEq, Repr

/-- The complete machine state (R32). -/
structure State where
  /-- the register file, x[0] an ordinary register (R20) -/
  x : Vector Word Config.nregs
  /-- the program counter, a natural number (R22, D8) -/
  pc : Nat
  /-- the data memory (R27) -/
  dmem : Memory
  /-- Running, Halted or Faulted (R29) -/
  runState : RunState
  /-- the program image: word i is mapped at address 4 * i (R28, R48) -/
  imem : List Word
  /-- what was last published; none before the first executed step (R31, R33) -/
  snapshot : Option Snapshot
deriving DecidableEq, Repr

/-- The faults of the hardware: one (R226). -/
inductive Fault where
  /-- Raised by the load and store classes when the address formed is no data cell (R221). The step that raises it is a NEXT
  state with `runState` Faulted (R102, R104, R222; log entry 5), and this value is what `hostStep` reports to the caller, by
  that step and by every later one (R202, R222). Safe: nothing is proved of a value the access did not have. -/
  | memIndexOutOfRange (a : Word)
deriving DecidableEq, Repr

/-- What the model turns away. -/
inductive Refusal where
  /-- Raised by `exec` for an instruction with no meaning yet; no arm raises it now. Safe: the model stops. -/
  | notModelled (mnemonic : String)
  /-- Raised by `loadProgram` for an image of more than 2^29 - 1 words, which the spec puts outside the model (U20, D8;
  log entry 9). Safe: the model says nothing of such an image. -/
  | programTooLong (words : Nat)
deriving DecidableEq, Repr

/-- The state right after reset when data memory holds `mem` (R33, R240): `mem` is the spec's open DMEM_INIT. -/
def State.resetWith (mem : Memory) : State where
  x := Vector.replicate Config.nregs 0#32
  pc := Config.pcReset
  dmem := mem
  runState := .running
  imem := []
  snapshot := none

/-- The state right after reset, with every data cell at `Config.dmemInit` (R33; log entry 6). -/
def State.reset : State := State.resetWith []

end Sys2Proof.Machine
end

