-- ==== Sys2Proof/Machine/Ops.lean ====
section
/-!
DEFINITION. The named operations over registers, data memory and the program image, and the ways an
instruction ends: writeback and publication, a load, a store, and taking the one fault
(spec/20_memory.md, spec/40_step_and_stages.md R98 to R102, spec/60_exceptions.md R222).

There is no return from a fault: Faulted is terminal (R222, R231).
-/

namespace Sys2Proof.Machine

/-! ### Registers -/

/-- `x[r]`: no special case for r = 0 (R10, R20). -/
def State.reg (s : State) (r : RegIdx) : Word := s.x[r.toNat]'r.isLt

/-- `x[r] <- v`: no special case for r = 0 (R10, R20). -/
def State.setReg (s : State) (r : RegIdx) (v : Word) : State :=
  { s with x := s.x.set r.toNat v r.isLt }

/-! ### Data memory -/

/-- The cell indices rise strictly. -/
def Memory.sorted : Memory → Bool
  | [] => true
  | [_] => true
  | c :: d :: rest => decide (c.1 < d.1) && Memory.sorted (d :: rest)

/-- The canonical form: indices rise strictly, every listed cell exists, and none holds what an unlisted cell reads as. -/
def Memory.wf (m : Memory) : Bool :=
  Memory.sorted m && m.all fun c => decide (c.1 < Config.dmemWords) && c.2 != Config.dmemInit c.1

/-- The content of cell `i`: what was last stored there, or DMEM_INIT (R50). -/
def Memory.read : Memory → Nat → Word
  | [], i => Config.dmemInit i
  | c :: rest, i => if c.1 = i then c.2 else Memory.read rest i

/-- Put a value at a cell, in rising order, replacing what was listed there. -/
def Memory.insert : Memory → Nat → Word → Memory
  | [], i, v => [(i, v)]
  | c :: rest, i, v =>
    if i < c.1 then (i, v) :: c :: rest
    else if i = c.1 then (i, v) :: rest
    else c :: Memory.insert rest i v

/-- Drop a cell from the list. -/
def Memory.erase (m : Memory) (i : Nat) : Memory := m.filter fun c => c.1 != i

/-- The whole of cell `i` becomes `v`; every other cell is unchanged (R43). -/
def Memory.write (m : Memory) (i : Nat) (v : Word) : Memory :=
  if v = Config.dmemInit i then Memory.erase m i else Memory.insert m i v

/-- The range check of an address Word, read as signed (R42, D5). -/
def inRange (a : Word) : Bool := decide (0 ≤ a.toInt ∧ a.toInt < Config.dmemWords)

/-- The cell an admitted address names: the address itself, not scaled and not masked (R41). -/
def cellOf (a : Word) : Nat := a.toInt.toNat

/-- `MemRead(a, 32)`: the whole cell, or none where the address is out of range (R10, R43). -/
def State.memRead (s : State) (a : Word) : Option Word :=
  if inRange a then some (Memory.read s.dmem (cellOf a)) else none

/-- `MemWrite(a, 32, v)`: none where the address is out of range (R10, R43). -/
def State.memWrite (s : State) (a v : Word) : Option State :=
  if inRange a then some { s with dmem := Memory.write s.dmem (cellOf a) v } else none

/-! ### Program image -/

/-- `IMEM[a]`: the word mapped at address `a`, or none (R10, R28, R47). -/
def fetchAt (imem : List Word) (a : Nat) : Option Word :=
  if Config.imemBase ≤ a ∧ (a - Config.imemBase) % 4 = 0 then imem[(a - Config.imemBase) / 4]? else none

/-- The instruction word of the next step (R91). -/
def State.fetch (s : State) : Option Word := fetchAt s.imem s.pc

/-- The step that finds no instruction: Running to Halted and nothing else (R91, R224). -/
def State.halt (s : State) : State := { s with runState := .halted }

/-- Install an image; nothing else changes, and Halted or Faulted stays (R200, R201). -/
def loadWords (ws : List Word) (s : State) : Host.Outcome State Fault Refusal :=
  if ws.length ≤ Config.progWordsMax then .next { s with imem := ws } else .refused (.programTooLong ws.length)

/-- `loadProgram(words)`: each element a 32-bit integer, a carrier v standing for wrap(v) (R200, D18). -/
def loadProgram (words : List Int) (s : State) : Host.Outcome State Fault Refusal :=
  loadWords (words.map wrap) s

/-! ### How an instruction ends -/

/-- Taking the fault `MemIndexOutOfRange(a)`: no register, no cell and not pc; nothing published; Faulted(a) (R102, R222). -/
def takeFault (a : Word) (s : State) : State := { s with runState := .faulted a }

/-- Publish, then advance: the last two actions of every completed step (R100, R101, R204). -/
def complete (i : Instr) (written : Option RegIdx) (s : State) : State :=
  { s with
    snapshot := some
      { regs := s.x, dec := decodeRecord (encode i), pc := s.pc, word := encode i, lastWritten := written }
    pc := s.pc + Config.pcStep }

/-- Writeback of a result to `x[rd]`, then publish and advance (R99). -/
def writeResult (i : Instr) (rd : RegIdx) (result : Word) (s : State) : Host.Outcome State Fault Refusal :=
  .next (complete i (some rd) (s.setReg rd result))

/-- A load: read the cell the result names and write it back, or take the fault (R98, R104). -/
def loadCell (i : Instr) (rd : RegIdx) (a : Word) (s : State) : Host.Outcome State Fault Refusal :=
  match s.memRead a with
  | some v => writeResult i rd v s
  | none => .next (takeFault a s)

/-- A store: write `x[rs2]` to the cell the result names, no register, or take the fault (R98, R99, R104). -/
def storeCell (i : Instr) (rs2 : RegIdx) (a : Word) (s : State) : Host.Outcome State Fault Refusal :=
  match s.memWrite a (s.reg rs2) with
  | some s' => .next (complete i none s')
  | none => .next (takeFault a s)

end Sys2Proof.Machine
end

