-- ==== Sys2Proof/Machine/Operands.lean ====
section
/-!
DEFINITION. The operand forms: the slots of the ALU routine that the load, store, immediate-ALU and
register-ALU classes share (spec/40_step_and_stages.md R95, R96), and the sums with pc (R93). The
second operand is an immediate or a 5-bit field, never x[rs2] (R97). The immediates themselves are in
Decode.lean, the comparisons in Flags.lean.
-/

namespace Sys2Proof.Machine

/-- Slot 0x0, funct7 = 0: `wrap(s(a) + s(i))` (R95, R96). -/
def aluAdd (a i : Word) : Word := a + i

/-- Slot 0x0, funct7 != 0: `wrap(s(a) - s(i))` (R95, R96). -/
def aluSub (a i : Word) : Word := a - i

/-- Slot 0x1: `a << n`, n the rs2 field, 0 to 31 (R95, R96, R97). -/
def aluShl (a : Word) (n : RegIdx) : Word := a <<< n.toNat

/-- Slot 0x3: the table's "other" row (R96). -/
def aluZero : Word := 0#32

/-- Slot 0x4 (R96). -/
def aluXor (a i : Word) : Word := a ^^^ i

/-- Slot 0x5, funct7 = 0: the logical right shift by the rs2 field (R95, R96). -/
def aluShr (a : Word) (n : RegIdx) : Word := a >>> n.toNat

/-- Slot 0x5, funct7 != 0: the arithmetic right shift by the rs2 field (R95, R96). -/
def aluSar (a : Word) (n : RegIdx) : Word := a.sshiftRight n.toNat

/-- Slot 0x6 (R96). -/
def aluOr (a i : Word) : Word := a ||| i

/-- Slot 0x7 (R96). -/
def aluAnd (a i : Word) : Word := a &&& i

/-- The pc as a Word: the Word of the same value (R22; log entry 22). -/
def pcWord (pc : Nat) : Word := BitVec.ofNat 32 pc

/-- `wrap(pc + s(imm))` (R93, R111). -/
def pcPlus (pc : Nat) (imm : Word) : Word := pcWord pc + imm

/-- `wrap(pc + 4)` (R93, R112). -/
def linkValue (pc : Nat) : Word := pcWord pc + 4#32

/-- `wrap(s(a) + s(imm))` with the low bit cleared (R93, R113). -/
def jalrValue (a imm : Word) : Word := (a + imm) &&& 0xFFFFFFFE#32

end Sys2Proof.Machine
end

