-- ==== Sys2Proof/Machine/Flags.lean ====
section
/-!
DEFINITION. The hardware has no flags, condition codes or predicates (spec/10_state.md R24). What other
machines keep in flags is here a Word written to x[rd]: the outcome of a comparison (R94, R95, R96).
-/

namespace Sys2Proof.Machine

/-- Equality of all 32 bits (R94, R120). -/
def condEq (a b : Word) : Bool := a == b

/-- Inequality (R94, R121). -/
def condNe (a b : Word) : Bool := a != b

/-- Signed less-than, exact (R94, R95, R122). -/
def condLt (a b : Word) : Bool := decide (a.toInt < b.toInt)

/-- Signed greater-or-equal, exact (R94, R95, R123). -/
def condGe (a b : Word) : Bool := decide (a.toInt ≥ b.toInt)

/-- The branch result: the immediate if the condition holds, else 0 (R94). -/
def branchResult (taken : Bool) (imm : Word) : Word := if taken then imm else 0#32

/-- Slot 0x2 of the ALU routine: 1 if s(a) < s(i), else 0 (R96). -/
def aluSlt (a i : Word) : Word := if condLt a i then 1#32 else 0#32

end Sys2Proof.Machine
end

