-- ==== Sys2Proof/Machine/AluImm.lean ====
section
/-!
DEFINITION. The immediate-ALU class (spec/43_alu_immediate.md): the ALU routine (R96) with the I immediate.
-/

namespace Sys2Proof.Machine

/-- ADDI, R130: funct7 = 0, so the immediate is 0 to 31. -/
def execAddi (rd rs1 : RegIdx) (imm5 : BitVec 5) (s : State) : Host.Outcome State Fault Refusal :=
  writeResult (.addi rd rs1 imm5) rd (aluAdd (s.reg rs1) (immI5 imm5)) s

/-- ADDI.NZ, R131: funct7 != 0, so the immediate is SUBTRACTED. -/
def execAddiNz (rd rs1 : RegIdx) (imm12 : BitVec 12) (s : State) : Host.Outcome State Fault Refusal :=
  writeResult (.addiNz rd rs1 imm12) rd (aluSub (s.reg rs1) (immI imm12)) s

/-- SLLI, R132. -/
def execSlli (rd rs1 shamt : RegIdx) (funct7 : BitVec 7) (s : State) : Host.Outcome State Fault Refusal :=
  writeResult (.slli rd rs1 shamt funct7) rd (aluShl (s.reg rs1) shamt) s

/-- SLTI, R133. -/
def execSlti (rd rs1 : RegIdx) (imm12 : BitVec 12) (s : State) : Host.Outcome State Fault Refusal :=
  writeResult (.slti rd rs1 imm12) rd (aluSlt (s.reg rs1) (immI imm12)) s

/-- SLTIU, R134: the result is 0. -/
def execSltiu (rd rs1 : RegIdx) (imm12 : BitVec 12) (s : State) : Host.Outcome State Fault Refusal :=
  writeResult (.sltiu rd rs1 imm12) rd aluZero s

/-- XORI, R135. -/
def execXori (rd rs1 : RegIdx) (imm12 : BitVec 12) (s : State) : Host.Outcome State Fault Refusal :=
  writeResult (.xori rd rs1 imm12) rd (aluXor (s.reg rs1) (immI imm12)) s

/-- SRLI, R136. -/
def execSrli (rd rs1 shamt : RegIdx) (s : State) : Host.Outcome State Fault Refusal :=
  writeResult (.srli rd rs1 shamt) rd (aluShr (s.reg rs1) shamt) s

/-- SRAI, R137: any non-zero funct7. -/
def execSrai (rd rs1 shamt : RegIdx) (funct7 : BitVec 7) (s : State) : Host.Outcome State Fault Refusal :=
  writeResult (.srai rd rs1 shamt funct7) rd (aluSar (s.reg rs1) shamt) s

/-- ORI, R138. -/
def execOri (rd rs1 : RegIdx) (imm12 : BitVec 12) (s : State) : Host.Outcome State Fault Refusal :=
  writeResult (.ori rd rs1 imm12) rd (aluOr (s.reg rs1) (immI imm12)) s

/-- ANDI, R139. -/
def execAndi (rd rs1 : RegIdx) (imm12 : BitVec 12) (s : State) : Host.Outcome State Fault Refusal :=
  writeResult (.andi rd rs1 imm12) rd (aluAnd (s.reg rs1) (immI imm12)) s

end Sys2Proof.Machine
end

