-- ==== Sys2Proof/Machine/AluReg.lean ====
section
/-!
DEFINITION. The register-ALU class (spec/44_alu_register.md): the ALU routine (R96) with immediate 0; the shifts
take the rs2 FIELD. No definition here reads x[rs2] (R97).
-/

namespace Sys2Proof.Machine

/-- ADD, R145: copies x[rs1]. -/
def execAdd (rd rs1 rs2 : RegIdx) (s : State) : Host.Outcome State Fault Refusal :=
  writeResult (.add rd rs1 rs2) rd (aluAdd (s.reg rs1) immZ) s

/-- SUB, R146: copies x[rs1]. -/
def execSub (rd rs1 rs2 : RegIdx) (funct7 : BitVec 7) (s : State) : Host.Outcome State Fault Refusal :=
  writeResult (.sub rd rs1 rs2 funct7) rd (aluSub (s.reg rs1) immZ) s

/-- SLL, R147: shifts by the index in the rs2 field. -/
def execSll (rd rs1 rs2 : RegIdx) (funct7 : BitVec 7) (s : State) : Host.Outcome State Fault Refusal :=
  writeResult (.sll rd rs1 rs2 funct7) rd (aluShl (s.reg rs1) rs2) s

/-- SLT, R148: the sign bit of x[rs1]. -/
def execSlt (rd rs1 rs2 : RegIdx) (funct7 : BitVec 7) (s : State) : Host.Outcome State Fault Refusal :=
  writeResult (.slt rd rs1 rs2 funct7) rd (aluSlt (s.reg rs1) immZ) s

/-- SLTU, R149: the result is 0. -/
def execSltu (rd rs1 rs2 : RegIdx) (funct7 : BitVec 7) (s : State) : Host.Outcome State Fault Refusal :=
  writeResult (.sltu rd rs1 rs2 funct7) rd aluZero s

/-- XOR, R150: copies x[rs1]. -/
def execXor (rd rs1 rs2 : RegIdx) (funct7 : BitVec 7) (s : State) : Host.Outcome State Fault Refusal :=
  writeResult (.xor rd rs1 rs2 funct7) rd (aluXor (s.reg rs1) immZ) s

/-- SRL, R151: shifts by the index in the rs2 field. -/
def execSrl (rd rs1 rs2 : RegIdx) (s : State) : Host.Outcome State Fault Refusal :=
  writeResult (.srl rd rs1 rs2) rd (aluShr (s.reg rs1) rs2) s

/-- SRA, R152: shifts by the index in the rs2 field. -/
def execSra (rd rs1 rs2 : RegIdx) (funct7 : BitVec 7) (s : State) : Host.Outcome State Fault Refusal :=
  writeResult (.sra rd rs1 rs2 funct7) rd (aluSar (s.reg rs1) rs2) s

/-- OR, R153: copies x[rs1]. -/
def execOr (rd rs1 rs2 : RegIdx) (funct7 : BitVec 7) (s : State) : Host.Outcome State Fault Refusal :=
  writeResult (.or rd rs1 rs2 funct7) rd (aluOr (s.reg rs1) immZ) s

/-- AND, R154: the result is 0. -/
def execAnd (rd rs1 rs2 : RegIdx) (funct7 : BitVec 7) (s : State) : Host.Outcome State Fault Refusal :=
  writeResult (.and rd rs1 rs2 funct7) rd (aluAnd (s.reg rs1) immZ) s

end Sys2Proof.Machine
end

