-- ==== Sys2Proof/Machine/Branch.lean ====
section
/-!
DEFINITION. The branch class (spec/42_branches.md): the comparison's result, the immediate or 0, goes to x[rd];
the pc advances by 4 whether or not the condition holds. rd is w[11:7], which also holds immediate bits.
-/

namespace Sys2Proof.Machine

/-- BEQ, R120. -/
def execBeq (rs1 rs2 rd : RegIdx) (funct7 : BitVec 7) (s : State) : Host.Outcome State Fault Refusal :=
  writeResult (.beq rs1 rs2 rd funct7) rd (branchResult (condEq (s.reg rs1) (s.reg rs2)) (immB funct7 rd)) s

/-- BNE, R121. -/
def execBne (rs1 rs2 rd : RegIdx) (funct7 : BitVec 7) (s : State) : Host.Outcome State Fault Refusal :=
  writeResult (.bne rs1 rs2 rd funct7) rd (branchResult (condNe (s.reg rs1) (s.reg rs2)) (immB funct7 rd)) s

/-- BLT, R122. -/
def execBlt (rs1 rs2 rd : RegIdx) (funct7 : BitVec 7) (s : State) : Host.Outcome State Fault Refusal :=
  writeResult (.blt rs1 rs2 rd funct7) rd (branchResult (condLt (s.reg rs1) (s.reg rs2)) (immB funct7 rd)) s

/-- BGE, R123. -/
def execBge (rs1 rs2 rd : RegIdx) (funct7 : BitVec 7) (s : State) : Host.Outcome State Fault Refusal :=
  writeResult (.bge rs1 rs2 rd funct7) rd (branchResult (condGe (s.reg rs1) (s.reg rs2)) (immB funct7 rd)) s

/-- BLTU, R124: the condition is always false. -/
def execBltu (rs1 rs2 rd : RegIdx) (funct7 : BitVec 7) (s : State) : Host.Outcome State Fault Refusal :=
  writeResult (.bltu rs1 rs2 rd funct7) rd (branchResult false (immB funct7 rd)) s

/-- BGEU, R125: the condition is always false. -/
def execBgeu (rs1 rs2 rd : RegIdx) (funct7 : BitVec 7) (s : State) : Host.Outcome State Fault Refusal :=
  writeResult (.bgeu rs1 rs2 rd funct7) rd (branchResult false (immB funct7 rd)) s

/-- BRANCH.F2, R126: the condition is always false. -/
def execBranchF2 (rs1 rs2 rd : RegIdx) (funct7 : BitVec 7) (s : State) : Host.Outcome State Fault Refusal :=
  writeResult (.branchF2 rs1 rs2 rd funct7) rd (branchResult false (immB funct7 rd)) s

/-- BRANCH.F3, R127: the condition is always false. -/
def execBranchF3 (rs1 rs2 rd : RegIdx) (funct7 : BitVec 7) (s : State) : Host.Outcome State Fault Refusal :=
  writeResult (.branchF3 rs1 rs2 rd funct7) rd (branchResult false (immB funct7 rd)) s

end Sys2Proof.Machine
end

