-- ==== Sys2Proof/Machine/Load.lean ====
section
/-!
DEFINITION. The load class (spec/45_loads.md): the ALU routine (R96) forms a cell index, the whole cell goes to
x[rd]. funct3 selects the address formula, not a width (R44, C1).
-/

namespace Sys2Proof.Machine

/-- LB, R160. -/
def execLb (rd rs1 : RegIdx) (imm5 : BitVec 5) (s : State) : Host.Outcome State Fault Refusal :=
  loadCell (.lb rd rs1 imm5) rd (aluAdd (s.reg rs1) (immI5 imm5)) s

/-- LB.NZ, R161: the immediate is SUBTRACTED. -/
def execLbNz (rd rs1 : RegIdx) (imm12 : BitVec 12) (s : State) : Host.Outcome State Fault Refusal :=
  loadCell (.lbNz rd rs1 imm12) rd (aluSub (s.reg rs1) (immI imm12)) s

/-- LH, R162. -/
def execLh (rd rs1 shamt : RegIdx) (funct7 : BitVec 7) (s : State) : Host.Outcome State Fault Refusal :=
  loadCell (.lh rd rs1 shamt funct7) rd (aluShl (s.reg rs1) shamt) s

/-- LW, R163: cell 0 or cell 1 (C1). -/
def execLw (rd rs1 : RegIdx) (imm12 : BitVec 12) (s : State) : Host.Outcome State Fault Refusal :=
  loadCell (.lw rd rs1 imm12) rd (aluSlt (s.reg rs1) (immI imm12)) s

/-- LOAD.F3, R164: cell 0. -/
def execLoadF3 (rd rs1 : RegIdx) (imm12 : BitVec 12) (s : State) : Host.Outcome State Fault Refusal :=
  loadCell (.loadF3 rd rs1 imm12) rd aluZero s

/-- LBU, R165. -/
def execLbu (rd rs1 : RegIdx) (imm12 : BitVec 12) (s : State) : Host.Outcome State Fault Refusal :=
  loadCell (.lbu rd rs1 imm12) rd (aluXor (s.reg rs1) (immI imm12)) s

/-- LHU, R166. -/
def execLhu (rd rs1 shamt : RegIdx) (s : State) : Host.Outcome State Fault Refusal :=
  loadCell (.lhu rd rs1 shamt) rd (aluShr (s.reg rs1) shamt) s

/-- LHU.NZ, R167. -/
def execLhuNz (rd rs1 shamt : RegIdx) (funct7 : BitVec 7) (s : State) : Host.Outcome State Fault Refusal :=
  loadCell (.lhuNz rd rs1 shamt funct7) rd (aluSar (s.reg rs1) shamt) s

/-- LOAD.F6, R168. -/
def execLoadF6 (rd rs1 : RegIdx) (imm12 : BitVec 12) (s : State) : Host.Outcome State Fault Refusal :=
  loadCell (.loadF6 rd rs1 imm12) rd (aluOr (s.reg rs1) (immI imm12)) s

/-- LOAD.F7, R169. -/
def execLoadF7 (rd rs1 : RegIdx) (imm12 : BitVec 12) (s : State) : Host.Outcome State Fault Refusal :=
  loadCell (.loadF7 rd rs1 imm12) rd (aluAnd (s.reg rs1) (immI imm12)) s

end Sys2Proof.Machine
end

