-- ==== Sys2Proof/Machine/Store.lean ====
section
/-!
DEFINITION. The store class (spec/46_stores.md): the ALU routine (R96) with the store immediate, which is 0 (R68,
C3), forms a cell index; the whole of x[rs2] goes to that cell and no register is written.
-/

namespace Sys2Proof.Machine

/-- SB, R175. -/
def execSb (rs1 rs2 rd : RegIdx) (s : State) : Host.Outcome State Fault Refusal :=
  storeCell (.sb rs1 rs2 rd) rs2 (aluAdd (s.reg rs1) (immStore 0#7 rd)) s

/-- SB.NZ, R176. -/
def execSbNz (rs1 rs2 rd : RegIdx) (funct7 : BitVec 7) (s : State) : Host.Outcome State Fault Refusal :=
  storeCell (.sbNz rs1 rs2 rd funct7) rs2 (aluSub (s.reg rs1) (immStore funct7 rd)) s

/-- SH, R177: the rs2 field is shift amount and data register number. -/
def execSh (rs1 rs2 rd : RegIdx) (funct7 : BitVec 7) (s : State) : Host.Outcome State Fault Refusal :=
  storeCell (.sh rs1 rs2 rd funct7) rs2 (aluShl (s.reg rs1) rs2) s

/-- SW, R178: cell 0 or cell 1. -/
def execSw (rs1 rs2 rd : RegIdx) (funct7 : BitVec 7) (s : State) : Host.Outcome State Fault Refusal :=
  storeCell (.sw rs1 rs2 rd funct7) rs2 (aluSlt (s.reg rs1) (immStore funct7 rd)) s

/-- STORE.F3, R179: cell 0. -/
def execStoreF3 (rs1 rs2 rd : RegIdx) (funct7 : BitVec 7) (s : State) : Host.Outcome State Fault Refusal :=
  storeCell (.storeF3 rs1 rs2 rd funct7) rs2 aluZero s

/-- STORE.F4, R180. -/
def execStoreF4 (rs1 rs2 rd : RegIdx) (funct7 : BitVec 7) (s : State) : Host.Outcome State Fault Refusal :=
  storeCell (.storeF4 rs1 rs2 rd funct7) rs2 (aluXor (s.reg rs1) (immStore funct7 rd)) s

/-- STORE.F5, R181: the rs2 field is shift amount and data register number. -/
def execStoreF5 (rs1 rs2 rd : RegIdx) (s : State) : Host.Outcome State Fault Refusal :=
  storeCell (.storeF5 rs1 rs2 rd) rs2 (aluShr (s.reg rs1) rs2) s

/-- STORE.F5.NZ, R182: the rs2 field is shift amount and data register number. -/
def execStoreF5Nz (rs1 rs2 rd : RegIdx) (funct7 : BitVec 7) (s : State) : Host.Outcome State Fault Refusal :=
  storeCell (.storeF5Nz rs1 rs2 rd funct7) rs2 (aluSar (s.reg rs1) rs2) s

/-- STORE.F6, R183. -/
def execStoreF6 (rs1 rs2 rd : RegIdx) (funct7 : BitVec 7) (s : State) : Host.Outcome State Fault Refusal :=
  storeCell (.storeF6 rs1 rs2 rd funct7) rs2 (aluOr (s.reg rs1) (immStore funct7 rd)) s

/-- STORE.F7, R184: cell 0. -/
def execStoreF7 (rs1 rs2 rd : RegIdx) (funct7 : BitVec 7) (s : State) : Host.Outcome State Fault Refusal :=
  storeCell (.storeF7 rs1 rs2 rd funct7) rs2 (aluAnd (s.reg rs1) (immStore funct7 rd)) s

end Sys2Proof.Machine
end

