-- ==== Sys2Proof/Machine/Unrecognised.lean ====
section
/-!
DEFINITION. Words of no recognised class (spec/47_other_opcodes.md): the result is 0 and x[rd] receives it, and
nothing else happens: no trap, no halt, no ordering (R73, C8).
-/

namespace Sys2Proof.Machine

/-- SYSTEM, R190. -/
def execSystem (rd : RegIdx) (hi : BitVec 20) (s : State) : Host.Outcome State Fault Refusal :=
  writeResult (.system rd hi) rd 0#32 s

/-- MISC-MEM, R191. -/
def execMiscMem (rd : RegIdx) (hi : BitVec 20) (s : State) : Host.Outcome State Fault Refusal :=
  writeResult (.miscMem rd hi) rd 0#32 s

/-- OTHER, R192. -/
def execOther (opcode : BitVec 7) (rd : RegIdx) (hi : BitVec 20) (s : State) : Host.Outcome State Fault Refusal :=
  writeResult (.other opcode rd hi) rd 0#32 s

end Sys2Proof.Machine
end

