-- ==== Sys2Proof/Machine/UpperJump.lean ====
section
/-!
DEFINITION. LUI, AUIPC, JAL, JALR (spec/41_upper_and_jumps.md). None transfers control.
-/

namespace Sys2Proof.Machine

/-- LUI, R110. -/
def execLui (rd : RegIdx) (imm20 : BitVec 20) (s : State) : Host.Outcome State Fault Refusal :=
  writeResult (.lui rd imm20) rd (immU imm20) s

/-- AUIPC, R111: pc is this instruction's own address. -/
def execAuipc (rd : RegIdx) (imm20 : BitVec 20) (s : State) : Host.Outcome State Fault Refusal :=
  writeResult (.auipc rd imm20) rd (pcPlus s.pc (immU imm20)) s

/-- JAL, R112: the J immediate is published and not used. -/
def execJal (rd : RegIdx) (imm20 : BitVec 20) (s : State) : Host.Outcome State Fault Refusal :=
  writeResult (.jal rd imm20) rd (linkValue s.pc) s

/-- JALR, R113: the would-be target goes to x[rd]; the immediate is 0 (C2). -/
def execJalr (rd rs1 : RegIdx) (funct3 : BitVec 3) (imm12 : BitVec 12) (s : State) : Host.Outcome State Fault Refusal :=
  writeResult (.jalr rd rs1 funct3 imm12) rd (jalrValue (s.reg rs1) (immJalr imm12)) s

end Sys2Proof.Machine
end

