-- ==== Sys2Proof/Machine/Dispatch.lean ====
section
/-!
DEFINITION. One arm per row of spec/opcode_table.json: the instruction's own meaning.
-/

namespace Sys2Proof.Machine

/-- What an instruction does to a state: execute, memory access, writeback, publish and advance (R90, R104). -/
def exec (i : Instr) (s : State) : Host.Outcome State Fault Refusal :=
  match i with
  | .lui rd imm20 => Sys2Proof.Machine.execLui rd imm20 s
  | .auipc rd imm20 => Sys2Proof.Machine.execAuipc rd imm20 s
  | .jal rd imm20 => Sys2Proof.Machine.execJal rd imm20 s
  | .jalr rd rs1 funct3 imm12 => Sys2Proof.Machine.execJalr rd rs1 funct3 imm12 s
  | .beq rs1 rs2 rd funct7 => Sys2Proof.Machine.execBeq rs1 rs2 rd funct7 s
  | .bne rs1 rs2 rd funct7 => Sys2Proof.Machine.execBne rs1 rs2 rd funct7 s
  | .blt rs1 rs2 rd funct7 => Sys2Proof.Machine.execBlt rs1 rs2 rd funct7 s
  | .bge rs1 rs2 rd funct7 => Sys2Proof.Machine.execBge rs1 rs2 rd funct7 s
  | .bltu rs1 rs2 rd funct7 => Sys2Proof.Machine.execBltu rs1 rs2 rd funct7 s
  | .bgeu rs1 rs2 rd funct7 => Sys2Proof.Machine.execBgeu rs1 rs2 rd funct7 s
  | .branchF2 rs1 rs2 rd funct7 => Sys2Proof.Machine.execBranchF2 rs1 rs2 rd funct7 s
  | .branchF3 rs1 rs2 rd funct7 => Sys2Proof.Machine.execBranchF3 rs1 rs2 rd funct7 s
  | .addi rd rs1 imm5 => Sys2Proof.Machine.execAddi rd rs1 imm5 s
  | .addiNz rd rs1 imm12 => Sys2Proof.Machine.execAddiNz rd rs1 imm12 s
  | .slli rd rs1 shamt funct7 => Sys2Proof.Machine.execSlli rd rs1 shamt funct7 s
  | .slti rd rs1 imm12 => Sys2Proof.Machine.execSlti rd rs1 imm12 s
  | .sltiu rd rs1 imm12 => Sys2Proof.Machine.execSltiu rd rs1 imm12 s
  | .xori rd rs1 imm12 => Sys2Proof.Machine.execXori rd rs1 imm12 s
  | .srli rd rs1 shamt => Sys2Proof.Machine.execSrli rd rs1 shamt s
  | .srai rd rs1 shamt funct7 => Sys2Proof.Machine.execSrai rd rs1 shamt funct7 s
  | .ori rd rs1 imm12 => Sys2Proof.Machine.execOri rd rs1 imm12 s
  | .andi rd rs1 imm12 => Sys2Proof.Machine.execAndi rd rs1 imm12 s
  | .add rd rs1 rs2 => Sys2Proof.Machine.execAdd rd rs1 rs2 s
  | .sub rd rs1 rs2 funct7 => Sys2Proof.Machine.execSub rd rs1 rs2 funct7 s
  | .sll rd rs1 rs2 funct7 => Sys2Proof.Machine.execSll rd rs1 rs2 funct7 s
  | .slt rd rs1 rs2 funct7 => Sys2Proof.Machine.execSlt rd rs1 rs2 funct7 s
  | .sltu rd rs1 rs2 funct7 => Sys2Proof.Machine.execSltu rd rs1 rs2 funct7 s
  | .xor rd rs1 rs2 funct7 => Sys2Proof.Machine.execXor rd rs1 rs2 funct7 s
  | .srl rd rs1 rs2 => Sys2Proof.Machine.execSrl rd rs1 rs2 s
  | .sra rd rs1 rs2 funct7 => Sys2Proof.Machine.execSra rd rs1 rs2 funct7 s
  | .or rd rs1 rs2 funct7 => Sys2Proof.Machine.execOr rd rs1 rs2 funct7 s
  | .and rd rs1 rs2 funct7 => Sys2Proof.Machine.execAnd rd rs1 rs2 funct7 s
  | .lb rd rs1 imm5 => Sys2Proof.Machine.execLb rd rs1 imm5 s
  | .lbNz rd rs1 imm12 => Sys2Proof.Machine.execLbNz rd rs1 imm12 s
  | .lh rd rs1 shamt funct7 => Sys2Proof.Machine.execLh rd rs1 shamt funct7 s
  | .lw rd rs1 imm12 => Sys2Proof.Machine.execLw rd rs1 imm12 s
  | .loadF3 rd rs1 imm12 => Sys2Proof.Machine.execLoadF3 rd rs1 imm12 s
  | .lbu rd rs1 imm12 => Sys2Proof.Machine.execLbu rd rs1 imm12 s
  | .lhu rd rs1 shamt => Sys2Proof.Machine.execLhu rd rs1 shamt s
  | .lhuNz rd rs1 shamt funct7 => Sys2Proof.Machine.execLhuNz rd rs1 shamt funct7 s
  | .loadF6 rd rs1 imm12 => Sys2Proof.Machine.execLoadF6 rd rs1 imm12 s
  | .loadF7 rd rs1 imm12 => Sys2Proof.Machine.execLoadF7 rd rs1 imm12 s
  | .sb rs1 rs2 rd => Sys2Proof.Machine.execSb rs1 rs2 rd s
  | .sbNz rs1 rs2 rd funct7 => Sys2Proof.Machine.execSbNz rs1 rs2 rd funct7 s
  | .sh rs1 rs2 rd funct7 => Sys2Proof.Machine.execSh rs1 rs2 rd funct7 s
  | .sw rs1 rs2 rd funct7 => Sys2Proof.Machine.execSw rs1 rs2 rd funct7 s
  | .storeF3 rs1 rs2 rd funct7 => Sys2Proof.Machine.execStoreF3 rs1 rs2 rd funct7 s
  | .storeF4 rs1 rs2 rd funct7 => Sys2Proof.Machine.execStoreF4 rs1 rs2 rd funct7 s
  | .storeF5 rs1 rs2 rd => Sys2Proof.Machine.execStoreF5 rs1 rs2 rd s
  | .storeF5Nz rs1 rs2 rd funct7 => Sys2Proof.Machine.execStoreF5Nz rs1 rs2 rd funct7 s
  | .storeF6 rs1 rs2 rd funct7 => Sys2Proof.Machine.execStoreF6 rs1 rs2 rd funct7 s
  | .storeF7 rs1 rs2 rd funct7 => Sys2Proof.Machine.execStoreF7 rs1 rs2 rd funct7 s
  | .system rd hi => Sys2Proof.Machine.execSystem rd hi s
  | .miscMem rd hi => Sys2Proof.Machine.execMiscMem rd hi s
  | .other opcode rd hi => Sys2Proof.Machine.execOther opcode rd hi s

end Sys2Proof.Machine
end

