-- ==== Sys2Proof/Machine/Step.lean ====
section
/-!
DEFINITION. One step of the Step Driver (spec/40_step_and_stages.md R91, R104): the run-state check, the
halt check and fetch, decode, and the instruction's own meaning.
-/

namespace Sys2Proof.Machine

/-- One step (R90, R91, R104). Halted and Faulted change nothing; an unmapped pc halts; otherwise the fetched word's
instruction runs. -/
def step (s : State) : Host.Outcome State Fault Refusal :=
  match s.runState with
  | .halted => .next s
  | .faulted _ => .next s
  | .running =>
    match s.fetch with
    | none => .next s.halt
    | some w => exec (decode w) s

/-- `s` about to fetch the given word: the image holds it at the pc, padded with zero words where the image was too short,
the pc is brought down to a multiple of 4 if it was none, and the core is Running. It stands for the host's `loadProgram`
(log entry 17). -/
def State.withFetchWord (s : State) (nbits w : Nat) : State :=
  let k := s.pc / 4
  let before := s.imem.take k
  { s with
    pc := 4 * k
    runState := .running
    imem := before ++ List.replicate (k - before.length) 0#32 ++ BitVec.ofNat Config.ilen (w % 2 ^ nbits) :: s.imem.drop (k + 1) }

end Sys2Proof.Machine
end

