-- ==== Sys2Proof/Machine/HostInterface.lean ====
section
/-!
DEFINITION. The logical interface the core offers to its host (spec/50_host_interface.md): what a call
of `step` reports and emits, and the core together with its at most one background worker. Steps of the
two host contexts are serialised, one whole move after another (R207, D11; log entry 12). The wait
between the worker's steps is not modelled (R203, R247; log entry 15).
-/

namespace Sys2Proof.Machine

/-- What a host call gets back (R202, R210). -/
inductive Reply where
  /-- the call returns nothing -/
  | returned
  /-- one instruction ran -/
  | executed
  /-- no instruction was mapped at pc, or the core was already Halted -/
  | halted
  /-- the fault, reported by the step that takes it and by every later one (R222) -/
  | faulted (f : Fault)
  /-- the model turns the call away -/
  | refused (r : Refusal)
deriving DecidableEq, Repr

/-- A call's effect on the core, its reply, and the notifications it emitted, in order. -/
structure CallResult where
  core : State
  reply : Reply
  notes : List Notification
deriving DecidableEq, Repr

/-- What a `step` call that left the core in `t` reports (R202). -/
def replyOf (t : State) : Reply :=
  match t.runState with
  | .running => .executed
  | .halted => .halted
  | .faulted a => .faulted (.memIndexOutOfRange a)

/-- What a step from `s` to `t` emitted: the published record if it executed, completion if it went from Running to
Halted, nothing otherwise (R204, R205, R222). -/
def notificationsOf (s t : State) : List Notification :=
  match s.runState, t.runState with
  | .running, .running => (t.snapshot.map Notification.perStep).toList
  | .running, .halted => [.completion]
  | _, _ => []

/-- The host operation `step()` (R202). -/
def hostStep (s : State) : CallResult :=
  match step s with
  | .next t => { core := t, reply := replyOf t, notes := notificationsOf s t }
  | .fault f => { core := s, reply := .faulted f, notes := [] }
  | .refused r => { core := s, reply := .refused r, notes := [] }

/-- At most `k` steps of auto-run, stopping after the first that did not execute (R203), with all they emitted. -/
def autoRun : Nat → State → State × List Notification
  | 0, s => (s, [])
  | k + 1, s =>
    let r := hostStep s
    if r.reply = .executed then ((autoRun k r.core).1, r.notes ++ (autoRun k r.core).2) else (r.core, r.notes)

/-- The argument of `run`, a floating-point number of steps per second (R203, D21). -/
inductive Rate where
  | notANumber
  | infinite (negative : Bool)
  | finite (stepsPerSecond : Rat)
deriving DecidableEq, Repr

/-- A rate starts auto-run iff it is finite and greater than 0 (R203, D21). -/
def Rate.valid : Rate → Bool
  | .notANumber => false
  | .infinite _ => false
  | .finite q => decide (0 < q)

/-- The core and whether a background worker is active (R206, R208). -/
structure System where
  core : State
  worker : Bool
deriving DecidableEq, Repr

/-- A newly created core: the reset state, no worker (R210). -/
def System.create : System := { core := State.reset, worker := false }

/-- The moves of the host's two contexts (R206, R210). There is no other: no stop, no reset, no access to a register, a
data cell or pc. -/
inductive HostMove where
  /-- the synchronous caller installs an image (R200) -/
  | loadProgram (words : List Int)
  /-- the synchronous caller steps (R202) -/
  | step
  /-- the synchronous caller asks for auto-run (R203) -/
  | run (rate : Rate)
  /-- the active worker performs its next step (R203) -/
  | workerStep
deriving DecidableEq, Repr

/-- A move's effect, its reply and its notifications. -/
structure MoveResult where
  system : System
  reply : Reply
  notes : List Notification
deriving DecidableEq, Repr

/-- `loadProgram` as a host call (R200, R201). -/
def System.load (y : System) (words : List Int) : MoveResult :=
  match loadProgram words y.core with
  | .next t => { system := { y with core := t }, reply := .returned, notes := [] }
  | .fault f => { system := y, reply := .faulted f, notes := [] }
  | .refused r => { system := y, reply := .refused r, notes := [] }

/-- `run(rate)`: starts a worker iff the rate is valid; a second run, like an invalid rate, changes nothing (R203, R208). -/
def System.startRun (y : System) (rate : Rate) : MoveResult :=
  { system := { y with worker := y.worker || rate.valid }, reply := .returned, notes := [] }

/-- The worker's next step; it stops after the first that did not execute (R203, R209). With no worker nothing happens. -/
def System.workerMove (y : System) : MoveResult :=
  if y.worker then
    let r := hostStep y.core
    { system := { core := r.core, worker := decide (r.reply = .executed) }, reply := r.reply, notes := r.notes }
  else { system := y, reply := .returned, notes := [] }

/-- One move of the host, serialised with every other (R207). -/
def System.move (y : System) : HostMove → MoveResult
  | .loadProgram words => y.load words
  | .step =>
    let r := hostStep y.core
    { system := { y with core := r.core }, reply := r.reply, notes := r.notes }
  | .run rate => y.startRun rate
  | .workerStep => y.workerMove

end Sys2Proof.Machine
end

