-- ==== Sys2Proof/Machine/Stages.lean ====
section
/-!
DEFINITION. The step as the spec writes it, stage by stage over the Decoded record
(spec/40_step_and_stages.md R92 to R104), with the integer laws of R95 spelled out. It is written
apart from the instructions' own meanings, which follow the per-instruction rules R110 to R192; that the
two are the same machine is a statement (Certificates/Slice0/Obligations.lean), not an assumption.
-/

namespace Sys2Proof.Machine

/-- Branch comparison (R94). -/
def branchStage (d : Decoded) (s : State) : Word :=
  let a := s.reg d.rs1
  let b := s.reg d.rs2
  let taken : Prop :=
    (d.funct3 = 0#3 ∧ a = b) ∨ (d.funct3 = 1#3 ∧ a ≠ b) ∨ (d.funct3 = 4#3 ∧ a.toInt < b.toInt) ∨
      (d.funct3 = 5#3 ∧ a.toInt ≥ b.toInt)
  if taken then d.imm else 0#32

/-- The ALU routine (R95, R96). -/
def aluStage (d : Decoded) (s : State) : Word :=
  let a := s.reg d.rs1
  let i := d.imm
  let n := d.rs2.toNat
  if d.funct3 = 0#3 then
    if d.funct7 = 0#7 then wrap (a.toInt + i.toInt) else wrap (a.toInt - i.toInt)
  else if d.funct3 = 1#3 then BitVec.ofNat 32 (a.toNat * 2 ^ n)
  else if d.funct3 = 2#3 then if a.toInt < i.toInt then 1#32 else 0#32
  else if d.funct3 = 4#3 then a ^^^ i
  else if d.funct3 = 5#3 then
    if d.funct7 = 0#7 then BitVec.ofNat 32 (a.toNat / 2 ^ n) else wrap (a.toInt / 2 ^ n)
  else if d.funct3 = 6#3 then a ||| i
  else if d.funct3 = 7#3 then a &&& i
  else 0#32

/-- The Execution Unit's dispatch (R93). -/
def executeStage (d : Decoded) (s : State) : Word :=
  if d.opcode = Config.opcLui then d.imm
  else if d.opcode = Config.opcAuipc then wrap (s.pc + d.imm.toInt)
  else if d.opcode = Config.opcJal then wrap (s.pc + 4)
  else if d.opcode = Config.opcJalr then wrap ((s.reg d.rs1).toInt + d.imm.toInt) &&& 0xFFFFFFFE#32
  else if d.opcode = Config.opcBranch then branchStage d s
  else if d.opcode = Config.opcLoad ∨ d.opcode = Config.opcStore ∨ d.opcode = Config.opcOpImm ∨ d.opcode = Config.opcOp then
    aluStage d s
  else 0#32

/-- Publish the snapshot and advance the counter (R100, R101): the last two lines of R104. -/
def publishStage (d : Decoded) (w : Word) (s : State) : State × List Notification :=
  let p : Snapshot :=
    { regs := s.x, dec := d, pc := s.pc, word := w,
      lastWritten := if d.opcode = Config.opcStore then none else some d.rd }
  ({ s with snapshot := some p, pc := s.pc + 4 }, [.perStep p])

/-- Memory access, writeback, publish, advance (R98, R99, R104). -/
def finishStage (d : Decoded) (w result : Word) (s : State) : State × List Notification :=
  if d.opcode = Config.opcLoad then
    if 0 ≤ result.toInt ∧ result.toInt < Config.dmemWords then
      publishStage d w (s.setReg d.rd (Memory.read s.dmem result.toInt.toNat))
    else ({ s with runState := .faulted result }, [])
  else if d.opcode = Config.opcStore then
    if 0 ≤ result.toInt ∧ result.toInt < Config.dmemWords then
      publishStage d w { s with dmem := Memory.write s.dmem result.toInt.toNat (s.reg d.rs2) }
    else ({ s with runState := .faulted result }, [])
  else publishStage d w (s.setReg d.rd result)

/-- The whole step as one function, with what it emits (R104). -/
def referenceStep (s : State) : State × List Notification :=
  match s.runState, s.fetch with
  | .halted, _ => (s, [])
  | .faulted _, _ => (s, [])
  | .running, none => ({ s with runState := .halted }, [.completion])
  | .running, some w => finishStage (decodeRecord w) w (executeStage (decodeRecord w) s) s

end Sys2Proof.Machine
end

