-- ==== Sys2Proof/Safety.lean ====
section
/-!
DEFINITION. What counts as a safe run, and the terms the statements are made of: the invariant of the
machine, and what an instruction changed and left alone, read through the model's own accessors.
-/

namespace Sys2Proof.Machine

/-- A completed run: Halted, and only Halted (R211, R239). Faulted is terminal and is no completion. -/
def State.completed (s : State) : Prop := s.runState = .halted

/-- No fault has been taken (R239). -/
def State.safe (s : State) : Prop := ∀ a, s.runState ≠ .faulted a

/-- The step call on this state would run an instruction. -/
def State.executing (s : State) (w : Word) : Prop := s.runState = .running ∧ s.fetch = some w

/-- The published record is that of the step that led to this state (R31, R204): its registers are the current ones, its
pc is one word back, its decoded record is that of its word, and its last-written index is the record's rd or, for a store, none. -/
def State.snapshotCurrent (s : State) : Prop :=
  ∀ p, s.snapshot = some p →
    p.regs = s.x ∧ p.pc + 4 = s.pc ∧ p.dec = decodeRecord p.word ∧
      p.lastWritten = if p.dec.opcode = Config.opcStore then none else some p.dec.rd

/-- The invariant of the machine: pc a multiple of 4 (R22), data memory in canonical form and inside the data space (R27),
the image within its bound (R7, D8), a recorded fault address out of range (R42, R222), and the snapshot current (R31). -/
def State.Inv (s : State) : Prop :=
  s.pc % 4 = 0 ∧ Memory.wf s.dmem = true ∧ s.imem.length ≤ Config.progWordsMax ∧
    (∀ a, s.runState = .faulted a → ¬(0 ≤ a.toInt ∧ a.toInt < 1024)) ∧ s.snapshotCurrent

/-- pc lies in 0, 4, .., 4N (R22). -/
def State.pcInImage (s : State) : Prop := s.pc % 4 = 0 ∧ s.pc ≤ 4 * s.imem.length

/-- The record an executed instruction publishes (R204). -/
def Published (i : Instr) (s t : State) (written : Option RegIdx) : Prop :=
  t.snapshot = some
    { regs := t.x, dec := decodeRecord (encode i), pc := s.pc, word := encode i, lastWritten := written }

/-- From `s` to `t` the instruction wrote `v` to `x[rd]` and nothing else: every other register, every data cell, the image
and the run state are as before; it published its record; the pc went on by 4. -/
def WroteRegister (i : Instr) (s t : State) (rd : RegIdx) (v : Word) : Prop :=
  t.reg rd = v ∧ (∀ r, r ≠ rd → t.reg r = s.reg r) ∧
    (∀ c, Memory.read t.dmem c = Memory.read s.dmem c) ∧ t.imem = s.imem ∧ t.runState = s.runState ∧
    t.pc = s.pc + 4 ∧ Published i s t (some rd)

/-- From `s` to `t` the instruction stored `v` to the cell that the address Word `a` names and changed nothing else: every
other cell, every register, the image and the run state are as before; it published its record; the pc went on by 4. -/
def StoredCell (i : Instr) (s t : State) (a v : Word) : Prop :=
  Memory.read t.dmem a.toInt.toNat = v ∧
    (∀ c, c ≠ a.toInt.toNat → Memory.read t.dmem c = Memory.read s.dmem c) ∧
    (∀ r, t.reg r = s.reg r) ∧ t.imem = s.imem ∧ t.runState = s.runState ∧
    t.pc = s.pc + 4 ∧ Published i s t none

/-- From `s` to `t` the fault `MemIndexOutOfRange(a)` was taken: Faulted(a), and no register, no cell, not the pc, not the
image and not the snapshot changed (R222). -/
def FaultedAt (s t : State) (a : Word) : Prop :=
  t.runState = .faulted a ∧ (∀ r, t.reg r = s.reg r) ∧
    (∀ c, Memory.read t.dmem c = Memory.read s.dmem c) ∧ t.pc = s.pc ∧ t.imem = s.imem ∧
    t.snapshot = s.snapshot

/-- The address Word names a data cell (R42). -/
abbrev InDataSpace (a : Word) : Prop := 0 ≤ a.toInt ∧ a.toInt < 1024

/-- A load that forms the address `a` for `x[rd]`: in the data space it writes the whole cell to `x[rd]` and nothing else;
out of it, it takes the fault. -/
def LoadsFrom (i : Instr) (s : State) (rd : RegIdx) (a : Word) : Prop :=
  (InDataSpace a → ∃ t, exec i s = .next t ∧ WroteRegister i s t rd (Memory.read s.dmem a.toInt.toNat)) ∧
    (¬InDataSpace a → ∃ t, exec i s = .next t ∧ FaultedAt s t a)

/-- A store of `x[rs2]` that forms the address `a`: in the data space it writes the whole cell and nothing else; out of
it, it takes the fault. -/
def StoresTo (i : Instr) (s : State) (rs2 : RegIdx) (a : Word) : Prop :=
  (InDataSpace a → ∃ t, exec i s = .next t ∧ StoredCell i s t a (s.reg rs2)) ∧
    (¬InDataSpace a → ∃ t, exec i s = .next t ∧ FaultedAt s t a)

/-- An instruction that always completes, with `v` in `x[rd]` and nothing else changed. -/
def Writes (i : Instr) (s : State) (rd : RegIdx) (v : Word) : Prop :=
  ∃ t, exec i s = .next t ∧ WroteRegister i s t rd v

end Sys2Proof.Machine
end

