-- ==== Sys2Proof/Certificates/Slice0/Obligations.lean ====
section
/-!
DEFINITION. The statements for the provers. Each docstring names the rule of spec/ it formalises or, for
a derived statement, the rules it rests on. The opcode numbers of the classes appear only through the named
parameters `Config.opc…` (log entry 1), so the statements hold of whatever eleven distinct numbers those are, but for
two: `FirstMatchingTableRowSelects`, whose table holds the numbers in its masks and matches, and
`SpecWordsDecodeAsWritten`, which is about concrete words.
-/

open Sys2Proof Sys2Proof.Machine

/-! ### Decoder and encoder -/

/-- Decoding the word of a well-formed instruction gives it back, every operand at every value (R61, R71, R72). -/
def Obligations.DecodeOfEncodeIsTheInstruction : Prop :=
  ∀ i : Instr, i.wf = true → decode (encode i) = i

/-- R76: re-encoding the six field positions of any word recovers it exactly; so does encoding the instruction it decodes to;
and the record's six fields are those fields. The spec marks the step from supported words to every word as derived. -/
def Obligations.ReencodingFieldsRecoversEveryWord : Prop :=
  ∀ w : Word,
    (let d := decodeRecord w
     d.funct7 ++ d.rs2 ++ d.rs1 ++ d.funct3 ++ d.rd ++ d.opcode = w) ∧
      packFields (fieldsOf w) = w ∧ encode (decode w) = w

/-- Every word decodes to a well-formed instruction: none is illegal (R70, R72, R73, R192). -/
def Obligations.EveryWordDecodesToWellFormed : Prop :=
  ∀ w : Word, (decode w).wf = true

/-- R77: the first row of the opcode table, in priority order, whose `(w & mask) == match` holds selects the instruction;
every word has one; the last row is OTHER, whose mask 0 matches every word. The spec marks R77 as derived from R70 to R72.
The table's masks and matches hold the opcode numbers, of which all but 0x03 and 0x13 are PRESUMED by the spec's decision D1
(log entry 1); R77 and R71 do not give them. -/
def Obligations.FirstMatchingTableRowSelects : Prop :=
  (∀ w : Word, ∃ row, firstRow w = some row ∧ row.1 = mnemonicOf (decode w)) ∧
    opcodeTable.getLast? = some ("OTHER", 0#32, 0#32) ∧ ∀ w, rowMatches w ("OTHER", 0#32, 0#32) = true

/-- R64: the U layout, for LUI and AUIPC words. -/
def Obligations.UpperImmediateLayout : Prop :=
  (∀ w : Word, w.extractLsb' 0 7 = Config.opcLui ∨ w.extractLsb' 0 7 = Config.opcAuipc →
    (decodeRecord w).imm = w.extractLsb' 12 20 ++ 0#12 ∧ (decodeRecord w).imm = w &&& 0xFFFFF000#32 ∧
      ((decodeRecord w).imm.toInt < 0 ↔ w.getLsbD 31 = true) ∧ (decodeRecord w).imm.toInt % 4096 = 0 ∧
      -(2 ^ 31) ≤ (decodeRecord w).imm.toInt ∧ (decodeRecord w).imm.toInt ≤ 2 ^ 31 - 4096) ∧
    (decodeRecord (0xABCDE080#32 ||| Config.opcLui.setWidth 32)).imm = 0xABCDE000#32

/-- R65: the J layout, for JAL words: never sign-extended, always even, and not used by the instruction, whose two forms that
differ only in the immediate change the same machine state but for the published record. -/
def Obligations.JumpImmediateLayout : Prop :=
  (∀ w : Word, w.extractLsb' 0 7 = Config.opcJal →
    (decodeRecord w).imm =
        (w.extractLsb' 31 1 ++ w.extractLsb' 12 8 ++ w.extractLsb' 20 1 ++ w.extractLsb' 21 10 ++ 0#1
          : BitVec 21).setWidth 32 ∧
      (decodeRecord w).imm.toInt % 2 = 0 ∧ 0 ≤ (decodeRecord w).imm.toInt ∧
      (decodeRecord w).imm.toInt ≤ 2 ^ 21 - 2 ∧
      (w.getLsbD 31 = true → 2 ^ 20 ≤ (decodeRecord w).imm.toInt)) ∧
    (decodeRecord (0xFFDFF080#32 ||| Config.opcJal.setWidth 32)).imm = 0x001FFFFC#32 ∧
    ∀ (rd : RegIdx) (imm imm' : BitVec 20) (s : State), ∃ t t',
      exec (.jal rd imm) s = .next t ∧ exec (.jal rd imm') s = .next t' ∧
        { t with snapshot := none } = { t' with snapshot := none }

/-- R66: the B layout, for branch words: never sign-extended, always even, and made of the bits of rd too. -/
def Obligations.BranchImmediateLayout : Prop :=
  (∀ w : Word, w.extractLsb' 0 7 = Config.opcBranch →
    (decodeRecord w).imm =
        (w.extractLsb' 31 1 ++ w.extractLsb' 7 1 ++ w.extractLsb' 25 6 ++ w.extractLsb' 8 4 ++ 0#1
          : BitVec 13).setWidth 32 ∧
      (decodeRecord w).imm.toInt % 2 = 0 ∧ 0 ≤ (decodeRecord w).imm.toInt ∧ (decodeRecord w).imm.toInt ≤ 8190 ∧
      (w.getLsbD 31 = true → 4096 ≤ (decodeRecord w).imm.toInt) ∧
      (decodeRecord w).rd = (decodeRecord w).imm.extractLsb' 1 4 ++ (decodeRecord w).imm.extractLsb' 11 1) ∧
    (decodeRecord (0xFE208E80#32 ||| Config.opcBranch.setWidth 32)).imm = 0x00001FFC#32 ∧
      (decodeRecord (0xFE208E80#32 ||| Config.opcBranch.setWidth 32)).rd = 29#5

/-- R67: the I layout, for load and immediate-ALU words, and its two other readings as funct7 and as rs2. -/
def Obligations.LoadAndAluImmediateLayout : Prop :=
  (∀ w : Word, w.extractLsb' 0 7 = Config.opcLoad ∨ w.extractLsb' 0 7 = Config.opcOpImm →
    (decodeRecord w).imm = w.sshiftRight 20 ∧ (decodeRecord w).imm = (w.extractLsb' 20 12).signExtend 32 ∧
      -2048 ≤ (decodeRecord w).imm.toInt ∧ (decodeRecord w).imm.toInt ≤ 2047 ∧
      ((decodeRecord w).funct7 = 0#7 ↔ 0 ≤ (decodeRecord w).imm.toInt ∧ (decodeRecord w).imm.toInt ≤ 31) ∧
      ((decodeRecord w).funct7 = 0#7 → ((decodeRecord w).rs2.toNat : Int) = (decodeRecord w).imm.toInt)) ∧
    (decodeRecord 0xFFF00093#32).imm = 0xFFFFFFFF#32 ∧ (decodeRecord 0xFFF00093#32).funct7 = 0x7F#7 ∧
    (decodeRecord 0xFFF00093#32).rs2 = 31#5

/-- R68: every other opcode has immediate 0; among them JALR, whose result is x[rs1] with bit 0 cleared, the stores, whose
address formula sees 0, and register-ALU. The model's default parameters (log entries 2 and 3) follow the rule. -/
def Obligations.EveryOtherOpcodeHasImmediateZero : Prop :=
  (∀ w : Word, w.extractLsb' 0 7 ∉ [Config.opcLui, Config.opcAuipc, Config.opcJal, Config.opcBranch, Config.opcLoad,
      Config.opcOpImm] → (decodeRecord w).imm = 0#32) ∧
    (∀ imm12, immJalr imm12 = 0#32) ∧ (∀ funct7 rd, immStore funct7 rd = 0#32) ∧
    ∀ a : Word, jalrValue a 0#32 = a &&& 0xFFFFFFFE#32 ∧ aluAdd a 0#32 = a

/-- A few words written out from the encodings of the spec, one per family (R71; spec/95_test_vectors.md section 2). A sanity
statement. Its words take the opcode numbers of the spec's decision D1 (log entry 1). -/
def Obligations.SpecWordsDecodeAsWritten : Prop :=
  decode 0xABCDE2B7#32 = .lui 5 0xABCDE ∧ decode 0x00208863#32 = .beq 1 2 16 0 ∧
    decode 0xFFF00093#32 = .addiNz 1 0 0xFFF ∧ decode 0x406283B3#32 = .sub 7 5 6 0x20 ∧
    decode 0x0080A103#32 = .lw 2 1 8 ∧ decode 0xFE208E23#32 = .sbNz 1 2 28 0x7F ∧
    decode 0x300092F3#32 = .system 5 0x30009 ∧ decode 0x0FF0000F#32 = .miscMem 0 0x0FF00 ∧
    decode 0xFFFFFFAF#32 = .other 0x2F 31 0xFFFFF

/-! ### The step -/

/-- When the core is Running and the word at pc decodes to an instruction, the step is exec of it at that state; nothing is
added around it (R90, R104). -/
def Obligations.StepRunsTheFetchedInstruction : Prop :=
  ∀ (s : State) (w : Word) (i : Instr), s.executing w → decode w = i → step s = exec i s

/-- R91: a step in Halted or Faulted does nothing; a step at an unmapped pc sets Halted, emits completion and changes nothing
else, so with an image of N words at pc = 4N, and at once with an empty image; otherwise the word at pc is the instruction of
the step. The spec marks the sentence on N words and on the empty image as derived. -/
def Obligations.HaltCheckAndFetch : Prop :=
  ∀ s : State,
    (s.runState ≠ .running → step s = .next s ∧ (hostStep s).notes = []) ∧
      (s.runState = .running → s.fetch = none →
        step s = .next { s with runState := .halted } ∧ (hostStep s).notes = [.completion]) ∧
      (s.pc = 4 * s.imem.length → s.fetch = none) ∧ (s.imem = [] → s.fetch = none) ∧
      ∀ w, s.runState = .running → s.fetch = some w → step s = exec (decode w) s

/-- R104: the step, and what it emits, is the spec's one function over the Decoded record, for every state. The fault's
effect and a store's last-written index are the spec's decisions D4 and D12 (log entries 5 and 13). -/
def Obligations.StepRefinesTheReferenceFunction : Prop :=
  ∀ s : State,
    step s = .next (referenceStep s).1 ∧ (hostStep s).core = (referenceStep s).1 ∧
      (hostStep s).notes = (referenceStep s).2

/-- Every instruction in every state, and so every step, answers a next state: no fault outcome, no refusal (R70, R73, R93).
That an out-of-range load or store answers a next state too, and not a fault outcome, is the model's DESIGN CHOICE of log
entry 5 over the spec's decision D4; R70, R73 and R93 do not say it. -/
def Obligations.EveryInstructionAnswersNext : Prop :=
  (∀ (i : Instr) (s : State), ∃ t, exec i s = .next t) ∧ ∀ s : State, ∃ t, step s = .next t

/-- Every step keeps the invariant of the machine, from every state that has it (R22, R27, R31, R42, R222). Where it speaks
of the fault and of a store's record it rests on D4 and D12 (log entries 5 and 13). -/
def Obligations.StepKeepsTheInvariant : Prop :=
  ∀ s t : State, s.Inv → step s = .next t → t.Inv

/-- The reset state has the invariant, whatever data memory holds (R33, R242). -/
def Obligations.ResetHasTheInvariant : Prop :=
  State.reset.Inv ∧ ∀ mem : Memory, Memory.wf mem = true → (State.resetWith mem).Inv

/-- Every move of the host keeps the invariant: no host can bring the core out of it (R207, R210). loadProgram keeps the
image's bound because the model refuses a longer list (the spec's D8, log entry 9); that moves are serialised is D11 (log
entry 12); the fault and record clauses of the invariant rest on D4 and D12 (log entries 5 and 13). -/
def Obligations.HostMovesKeepTheInvariant : Prop :=
  ∀ (y : System) (m : HostMove), y.core.Inv → (y.move m).system.core.Inv

/-- A step from a state whose pc is a multiple of 4 in 0 to 4N leaves such a state, and the step that halts does so at
pc = 4N (R22, R91, R211). -/
def Obligations.PcStaysInTheImage : Prop :=
  ∀ s t : State, s.pcInImage → step s = .next t →
    t.pcInImage ∧ (s.runState = .running → t.completed → t.pc = 4 * t.imem.length)

/-- R23: the only change of pc is + 4, by exactly the steps that execute an instruction to its end, whatever the opcode; a
step that finds no instruction or takes the fault, and one in a terminal state, leaves it. That the faulting step leaves pc
is the spec's decision D4 (log entry 5). -/
def Obligations.PcChangesOnlyByFour : Prop :=
  ∀ s t : State, step s = .next t →
    (s.runState = .running → (∃ w, s.fetch = some w) → t.runState = .running → t.pc = s.pc + 4) ∧
      (s.runState ≠ .running ∨ s.fetch = none ∨ t.runState ≠ .running → t.pc = s.pc)

/-- Data memory changes only in a store step (R27, R43, R55). -/
def Obligations.OnlyStoresChangeDataMemory : Prop :=
  ∀ s t : State, step s = .next t → (∃ c, Memory.read t.dmem c ≠ Memory.read s.dmem c) →
    ∃ w, s.executing w ∧ (decodeRecord w).opcode = Config.opcStore ∧ InDataSpace (executeStage (decodeRecord w) s)

/-- R99: an executed non-store step overwrites `x[rd]` with the stage result, rd = 0 included, and no other register; a store
step writes none. The stage result is the Memory Access Stage's (R98): the cell for a load, the result otherwise. -/
def Obligations.WritebackWritesExactlyRd : Prop :=
  ∀ (s t : State) (w : Word), s.executing w → step s = .next t → t.runState = .running →
    (let d := decodeRecord w
     let result := executeStage d s
     (∀ r, d.opcode = Config.opcStore ∨ r ≠ d.rd → t.reg r = s.reg r) ∧
       (d.opcode ≠ Config.opcStore →
         t.reg d.rd = if d.opcode = Config.opcLoad then Memory.read s.dmem result.toInt.toNat else result))

/-- No step changes the program image; so no store is ever seen by a fetch (R28, R40, R53). -/
def Obligations.NoStepChangesTheImage : Prop :=
  ∀ s t : State, step s = .next t → t.imem = s.imem ∧ ∀ a, fetchAt t.imem a = fetchAt s.imem a

/-- R221, R222: the fault is taken exactly by a load or a store whose Execution Unit result is no data cell; it records that
address; the step changes nothing but the run state, publishes nothing, and reports the fault, as does every later step. The
effect is the spec's decision D4, the signed reading of the address D5 (log entries 5 and 21). -/
def Obligations.OnlyLoadsAndStoresFault : Prop :=
  ∀ (s : State) (w : Word), s.executing w →
    (let a := executeStage (decodeRecord w) s
     let faults := ((decodeRecord w).opcode = Config.opcLoad ∨ (decodeRecord w).opcode = Config.opcStore) ∧ ¬InDataSpace a
     (faults → step s = .next { s with runState := .faulted a } ∧ (hostStep s).notes = [] ∧
       (hostStep s).reply = .faulted (.memIndexOutOfRange a) ∧
       (hostStep (hostStep s).core).core = (hostStep s).core ∧
       (hostStep (hostStep s).core).reply = .faulted (.memIndexOutOfRange a) ∧
       (hostStep (hostStep s).core).notes = []) ∧
     (¬faults → ∃ t, step s = .next t ∧ t.runState = .running))

/-- R34: nothing returns the run state from Halted or Faulted to Running: no step and no move of the host; no move is a
reset, since none takes the counter back; and loadProgram resets neither registers, nor memory, nor the counter. -/
def Obligations.HaltedAndFaultedAreTerminal : Prop :=
  (∀ (y : System) (m : HostMove), y.core.runState ≠ .running → (y.move m).system.core.runState = y.core.runState) ∧
    (∀ (y : System) (m : HostMove), y.core.pc ≤ (y.move m).system.core.pc) ∧
    ∀ (y : System) (words : List Int),
      (y.move (.loadProgram words)).system.core.x = y.core.x ∧
        (y.move (.loadProgram words)).system.core.dmem = y.core.dmem ∧
        (y.move (.loadProgram words)).system.core.pc = y.core.pc

/-- R33: reset leaves every register 0, pc 0, Running, an empty image and no snapshot, whatever data memory holds; the first
address fetched from is 0. The cells' value at `State.reset`, 0, is the model's choice (log entry 6) and is not stated here. -/
def Obligations.ResetValues : Prop :=
  ∀ mem : Memory,
    (∀ r, (State.resetWith mem).reg r = 0#32) ∧ (State.resetWith mem).pc = 0 ∧
      (State.resetWith mem).runState = .running ∧ (∀ a, fetchAt (State.resetWith mem).imem a = none) ∧
      (State.resetWith mem).snapshot = none ∧ (∀ c, Memory.read (State.resetWith mem).dmem c = Memory.read mem c) ∧
      (∀ words, (State.fetch { State.resetWith mem with imem := words }) = words[0]?)

/-- From a Running state at word j of an image of N words, auto-run ends within N - j + 1 steps: either Halted at pc = 4N
after N - j executed steps and one completion, or Faulted at some word k with the record of every word before it and no
completion (R105, R211, R248). The spec marks these rules as derived; the fault's effect is its decision D4 (log entry 5). -/
def Obligations.EveryRunEndsHaltedOrFaulted : Prop :=
  ∀ (s : State) (j : Nat), s.runState = .running → s.pc = 4 * j → j ≤ s.imem.length →
    (let r := autoRun (s.imem.length - j + 1) s
     (r.1.completed ∧ r.1.pc = 4 * s.imem.length ∧ ∃ steps : List Snapshot,
         steps.map (fun p => (p.pc, some p.word)) =
           (List.range' j (s.imem.length - j)).map (fun k => (4 * k, s.imem[k]?)) ∧
         r.2 = steps.map .perStep ++ [.completion]) ∨
       ∃ a k, r.1.runState = .faulted a ∧ j ≤ k ∧ k < s.imem.length ∧ r.1.pc = 4 * k ∧ ∃ steps : List Snapshot,
         steps.map (fun p => (p.pc, some p.word)) =
           (List.range' j (k - j)).map (fun k => (4 * k, s.imem[k]?)) ∧
         r.2 = steps.map .perStep)

/-! ### Upper-immediate and jump-and-link -/

/-- R110: LUI writes its immediate to x[rd], rd = 0 included. -/
def Obligations.LuiWritesItsImmediate : Prop :=
  ∀ (rd : RegIdx) (imm20 : BitVec 20) (s : State),
    encode (.lui rd imm20) = imm20 ++ rd ++ Config.opcLui ∧ Writes (.lui rd imm20) s rd (imm20 ++ 0#12)

/-- R111: AUIPC writes wrap(pc + s(imm)), pc its own address. That the sum wraps is the spec's decision D3 (log entry 4). -/
def Obligations.AuipcAddsPc : Prop :=
  ∀ (rd : RegIdx) (imm20 : BitVec 20) (s : State),
    encode (.auipc rd imm20) = imm20 ++ rd ++ Config.opcAuipc ∧
      Writes (.auipc rd imm20) s rd (wrap (s.pc + (imm20 ++ 0#12 : Word).toInt))

/-- R112: JAL writes wrap(pc + 4); the pc becomes pc + 4 too, whatever the offset, and x[rd] then equals the new pc. -/
def Obligations.JalWritesTheLink : Prop :=
  ∀ (rd : RegIdx) (imm20 : BitVec 20) (s : State),
    encode (.jal rd imm20) = imm20 ++ rd ++ Config.opcJal ∧ Writes (.jal rd imm20) s rd (wrap (s.pc + 4)) ∧
      ∀ t, exec (.jal rd imm20) s = .next t → t.reg rd = wrap t.pc

/-- R113: JALR writes x[rs1] with bit 0 cleared (its immediate is 0, C2), an even value; the old x[rs1] where rd = rs1. The
immediate 0 is the spec's decision D2 (log entry 2). -/
def Obligations.JalrWritesTheEvenTarget : Prop :=
  ∀ (rd rs1 : RegIdx) (funct3 : BitVec 3) (imm12 : BitVec 12) (s : State),
    encode (.jalr rd rs1 funct3 imm12) = imm12 ++ rs1 ++ funct3 ++ rd ++ Config.opcJalr ∧
      Writes (.jalr rd rs1 funct3 imm12) s rd (s.reg rs1 &&& 0xFFFFFFFE#32) ∧
      (s.reg rs1 &&& 0xFFFFFFFE#32).toNat = (s.reg rs1).toNat - (s.reg rs1).toNat % 2

/-- Under either reading of JALR_IMM_LAYOUT (D2; the model's default is log entry 2) a JALR word whose bits 31:20 are zero has
the same result, and under the I reading the result is the masked sum with the sign-extended bits. -/
def Obligations.JalrReadingsAgreeOnZeroBits : Prop :=
  ∀ (a : Word) (imm12 : BitVec 12),
    (imm12 = 0#12 → jalrValue a (immJalrUnder .z imm12) = jalrValue a (immJalrUnder .i imm12)) ∧
      jalrValue a (immJalrUnder .i imm12) = wrap (a.toInt + imm12.toInt) &&& 0xFFFFFFFE#32

/-! ### Branches -/

/-- The branch immediate of R66 from the operands of a branch: 13 bits, zero-extended. -/
def branchImm (funct7 : BitVec 7) (rd : RegIdx) : Word :=
  BitVec.ofNat 32
    ((funct7.toNat / 64) * 4096 + (rd.toNat % 2) * 2048 + (funct7.toNat % 64) * 32 + (rd.toNat / 2) * 2)

/-- R120, R121: BEQ and BNE write the immediate if their condition holds, else 0; with rs1 = rs2, BEQ's always holds and
BNE's never. -/
def Obligations.EqualityBranchesWriteImmediateOrZero : Prop :=
  ∀ (rs1 rs2 rd : RegIdx) (funct7 : BitVec 7) (s : State),
    encode (.beq rs1 rs2 rd funct7) = funct7 ++ rs2 ++ rs1 ++ 0#3 ++ rd ++ Config.opcBranch ∧
      Writes (.beq rs1 rs2 rd funct7) s rd (if s.reg rs1 = s.reg rs2 then branchImm funct7 rd else 0#32) ∧
      encode (.bne rs1 rs2 rd funct7) = funct7 ++ rs2 ++ rs1 ++ 1#3 ++ rd ++ Config.opcBranch ∧
      Writes (.bne rs1 rs2 rd funct7) s rd (if s.reg rs1 ≠ s.reg rs2 then branchImm funct7 rd else 0#32)

/-- R122, R123: BLT and BGE write the immediate if their signed condition holds, else 0. -/
def Obligations.SignedBranchesWriteImmediateOrZero : Prop :=
  ∀ (rs1 rs2 rd : RegIdx) (funct7 : BitVec 7) (s : State),
    encode (.blt rs1 rs2 rd funct7) = funct7 ++ rs2 ++ rs1 ++ 4#3 ++ rd ++ Config.opcBranch ∧
      Writes (.blt rs1 rs2 rd funct7) s rd
        (if (s.reg rs1).toInt < (s.reg rs2).toInt then branchImm funct7 rd else 0#32) ∧
      encode (.bge rs1 rs2 rd funct7) = funct7 ++ rs2 ++ rs1 ++ 5#3 ++ rd ++ Config.opcBranch ∧
      Writes (.bge rs1 rs2 rd funct7) s rd
        (if (s.reg rs2).toInt ≤ (s.reg rs1).toInt then branchImm funct7 rd else 0#32)

/-- R124 to R127: BLTU, BGEU, BRANCH.F2 and BRANCH.F3 write 0, whatever the registers hold. -/
def Obligations.UnsupportedBranchesWriteZero : Prop :=
  ∀ (rs1 rs2 rd : RegIdx) (funct7 : BitVec 7) (s : State),
    encode (.bltu rs1 rs2 rd funct7) = funct7 ++ rs2 ++ rs1 ++ 6#3 ++ rd ++ Config.opcBranch ∧
      Writes (.bltu rs1 rs2 rd funct7) s rd 0#32 ∧
      encode (.bgeu rs1 rs2 rd funct7) = funct7 ++ rs2 ++ rs1 ++ 7#3 ++ rd ++ Config.opcBranch ∧
      Writes (.bgeu rs1 rs2 rd funct7) s rd 0#32 ∧
      encode (.branchF2 rs1 rs2 rd funct7) = funct7 ++ rs2 ++ rs1 ++ 2#3 ++ rd ++ Config.opcBranch ∧
      Writes (.branchF2 rs1 rs2 rd funct7) s rd 0#32 ∧
      encode (.branchF3 rs1 rs2 rd funct7) = funct7 ++ rs2 ++ rs1 ++ 3#3 ++ rd ++ Config.opcBranch ∧
      Writes (.branchF3 rs1 rs2 rd funct7) s rd 0#32

/-! ### Immediate-ALU -/

/-- R130, R131: ADDI adds an immediate of 0 to 31; with any other immediate the word is ADDI.NZ and subtracts it. Both wrap.
That the sums wrap is the spec's decision D3 (log entry 4). -/
def Obligations.AddiAddsSmallAndSubtractsOther : Prop :=
  ∀ (rd rs1 : RegIdx) (s : State),
    (∀ imm5 : BitVec 5,
      encode (.addi rd rs1 imm5) = 0#7 ++ imm5 ++ rs1 ++ 0#3 ++ rd ++ Config.opcOpImm ∧
        Writes (.addi rd rs1 imm5) s rd (wrap ((s.reg rs1).toInt + imm5.toNat))) ∧
      ∀ imm12 : BitVec 12,
        encode (.addiNz rd rs1 imm12) = imm12 ++ rs1 ++ 0#3 ++ rd ++ Config.opcOpImm ∧
          ((Instr.addiNz rd rs1 imm12).wf = true ↔ imm12.toInt < 0 ∨ 32 ≤ imm12.toInt) ∧
          Writes (.addiNz rd rs1 imm12) s rd (wrap ((s.reg rs1).toInt - imm12.toInt))

/-- R132, R136, R137: SLLI, SRLI and SRAI shift x[rs1] by the rs2 field, left, logically right, arithmetically right; the last
for each non-zero funct7. -/
def Obligations.ImmediateShiftsShiftByTheField : Prop :=
  ∀ (rd rs1 shamt : RegIdx) (funct7 : BitVec 7) (s : State),
    encode (.slli rd rs1 shamt funct7) = funct7 ++ shamt ++ rs1 ++ 1#3 ++ rd ++ Config.opcOpImm ∧
      Writes (.slli rd rs1 shamt funct7) s rd (BitVec.ofNat 32 ((s.reg rs1).toNat * 2 ^ shamt.toNat)) ∧
      encode (.srli rd rs1 shamt) = 0#7 ++ shamt ++ rs1 ++ 5#3 ++ rd ++ Config.opcOpImm ∧
      Writes (.srli rd rs1 shamt) s rd (BitVec.ofNat 32 ((s.reg rs1).toNat / 2 ^ shamt.toNat)) ∧
      encode (.srai rd rs1 shamt funct7) = funct7 ++ shamt ++ rs1 ++ 5#3 ++ rd ++ Config.opcOpImm ∧
      ((Instr.srai rd rs1 shamt funct7).wf = true ↔ funct7 ≠ 0#7) ∧
      Writes (.srai rd rs1 shamt funct7) s rd (wrap ((s.reg rs1).toInt / 2 ^ shamt.toNat))

/-- R133, R134: SLTI writes 1 if x[rs1] is less than the immediate, signed, else 0; SLTIU writes 0. -/
def Obligations.SltiComparesSignedAndSltiuWritesZero : Prop :=
  ∀ (rd rs1 : RegIdx) (imm12 : BitVec 12) (s : State),
    encode (.slti rd rs1 imm12) = imm12 ++ rs1 ++ 2#3 ++ rd ++ Config.opcOpImm ∧
      Writes (.slti rd rs1 imm12) s rd (if (s.reg rs1).toInt < imm12.toInt then 1#32 else 0#32) ∧
      encode (.sltiu rd rs1 imm12) = imm12 ++ rs1 ++ 3#3 ++ rd ++ Config.opcOpImm ∧
      Writes (.sltiu rd rs1 imm12) s rd 0#32

/-- R135, R138, R139: XORI, ORI and ANDI combine x[rs1] with the sign-extended immediate. -/
def Obligations.ImmediateLogicUsesTheSignExtendedImmediate : Prop :=
  ∀ (rd rs1 : RegIdx) (imm12 : BitVec 12) (s : State),
    encode (.xori rd rs1 imm12) = imm12 ++ rs1 ++ 4#3 ++ rd ++ Config.opcOpImm ∧
      Writes (.xori rd rs1 imm12) s rd (s.reg rs1 ^^^ wrap imm12.toInt) ∧
      encode (.ori rd rs1 imm12) = imm12 ++ rs1 ++ 6#3 ++ rd ++ Config.opcOpImm ∧
      Writes (.ori rd rs1 imm12) s rd (s.reg rs1 ||| wrap imm12.toInt) ∧
      encode (.andi rd rs1 imm12) = imm12 ++ rs1 ++ 7#3 ++ rd ++ Config.opcOpImm ∧
      Writes (.andi rd rs1 imm12) s rd (s.reg rs1 &&& wrap imm12.toInt)

/-! ### Register-ALU -/

/-- R145, R146, R150, R153: ADD, SUB, XOR and OR copy x[rs1]; the rs2 field is ignored. It rests on the immediate 0 of this
class, the spec's decision D20 (log entry 3). -/
def Obligations.RegisterAluCopiesRs1 : Prop :=
  ∀ (rd rs1 rs2 : RegIdx) (funct7 : BitVec 7) (s : State),
    encode (.add rd rs1 rs2) = 0#7 ++ rs2 ++ rs1 ++ 0#3 ++ rd ++ Config.opcOp ∧
      Writes (.add rd rs1 rs2) s rd (s.reg rs1) ∧
      encode (.sub rd rs1 rs2 funct7) = funct7 ++ rs2 ++ rs1 ++ 0#3 ++ rd ++ Config.opcOp ∧
      ((Instr.sub rd rs1 rs2 funct7).wf = true ↔ funct7 ≠ 0#7) ∧
      Writes (.sub rd rs1 rs2 funct7) s rd (s.reg rs1) ∧
      encode (.xor rd rs1 rs2 funct7) = funct7 ++ rs2 ++ rs1 ++ 4#3 ++ rd ++ Config.opcOp ∧
      Writes (.xor rd rs1 rs2 funct7) s rd (s.reg rs1) ∧
      encode (.or rd rs1 rs2 funct7) = funct7 ++ rs2 ++ rs1 ++ 6#3 ++ rd ++ Config.opcOp ∧
      Writes (.or rd rs1 rs2 funct7) s rd (s.reg rs1)

/-- R147, R151, R152: SLL, SRL and SRA shift x[rs1] by the INDEX in the rs2 field, whatever the register of that index holds. -/
def Obligations.RegisterShiftsShiftByTheIndex : Prop :=
  ∀ (rd rs1 rs2 : RegIdx) (funct7 : BitVec 7) (s : State),
    encode (.sll rd rs1 rs2 funct7) = funct7 ++ rs2 ++ rs1 ++ 1#3 ++ rd ++ Config.opcOp ∧
      Writes (.sll rd rs1 rs2 funct7) s rd (BitVec.ofNat 32 ((s.reg rs1).toNat * 2 ^ rs2.toNat)) ∧
      encode (.srl rd rs1 rs2) = 0#7 ++ rs2 ++ rs1 ++ 5#3 ++ rd ++ Config.opcOp ∧
      Writes (.srl rd rs1 rs2) s rd (BitVec.ofNat 32 ((s.reg rs1).toNat / 2 ^ rs2.toNat)) ∧
      encode (.sra rd rs1 rs2 funct7) = funct7 ++ rs2 ++ rs1 ++ 5#3 ++ rd ++ Config.opcOp ∧
      ((Instr.sra rd rs1 rs2 funct7).wf = true ↔ funct7 ≠ 0#7) ∧
      Writes (.sra rd rs1 rs2 funct7) s rd (wrap ((s.reg rs1).toInt / 2 ^ rs2.toNat))

/-- R148, R149, R154: SLT writes the sign bit of x[rs1]; SLTU and AND write 0. It rests on the immediate 0 of this class, the
spec's decision D20 (log entry 3). -/
def Obligations.SltWritesTheSignAndSltuAndAndZero : Prop :=
  ∀ (rd rs1 rs2 : RegIdx) (funct7 : BitVec 7) (s : State),
    encode (.slt rd rs1 rs2 funct7) = funct7 ++ rs2 ++ rs1 ++ 2#3 ++ rd ++ Config.opcOp ∧
      Writes (.slt rd rs1 rs2 funct7) s rd ((s.reg rs1).extractLsb' 31 1 |>.setWidth 32) ∧
      encode (.sltu rd rs1 rs2 funct7) = funct7 ++ rs2 ++ rs1 ++ 3#3 ++ rd ++ Config.opcOp ∧
      Writes (.sltu rd rs1 rs2 funct7) s rd 0#32 ∧
      encode (.and rd rs1 rs2 funct7) = funct7 ++ rs2 ++ rs1 ++ 7#3 ++ rd ++ Config.opcOp ∧
      Writes (.and rd rs1 rs2 funct7) s rd 0#32

/-! ### Loads -/

/-- R160, R161: LB loads the cell at x[rs1] + imm, imm 0 to 31; with any other immediate the word is LB.NZ and loads the cell
at x[rs1] - imm. Out of range, both take the fault. The wrap is the spec's decision D3, the fault's effect D4 (log entries 4
and 5). -/
def Obligations.LbLoadsSumOrDifference : Prop :=
  ∀ (rd rs1 : RegIdx) (s : State),
    (∀ imm5 : BitVec 5,
      encode (.lb rd rs1 imm5) = 0#7 ++ imm5 ++ rs1 ++ 0#3 ++ rd ++ Config.opcLoad ∧
        LoadsFrom (.lb rd rs1 imm5) s rd (wrap ((s.reg rs1).toInt + imm5.toNat))) ∧
      ∀ imm12 : BitVec 12,
        encode (.lbNz rd rs1 imm12) = imm12 ++ rs1 ++ 0#3 ++ rd ++ Config.opcLoad ∧
          ((Instr.lbNz rd rs1 imm12).wf = true ↔ imm12.toInt < 0 ∨ 32 ≤ imm12.toInt) ∧
          LoadsFrom (.lbNz rd rs1 imm12) s rd (wrap ((s.reg rs1).toInt - imm12.toInt))

/-- R162, R166, R167: LH, LHU and LHU.NZ load the cell at x[rs1] shifted by the rs2 field: left, logically right,
arithmetically right. Out of range they take the fault; LHU.NZ always does where x[rs1] is negative. The fault's effect is
the spec's decision D4 (log entry 5). -/
def Obligations.ShiftLoadsFromTheShiftedBase : Prop :=
  ∀ (rd rs1 shamt : RegIdx) (funct7 : BitVec 7) (s : State),
    encode (.lh rd rs1 shamt funct7) = funct7 ++ shamt ++ rs1 ++ 1#3 ++ rd ++ Config.opcLoad ∧
      LoadsFrom (.lh rd rs1 shamt funct7) s rd (BitVec.ofNat 32 ((s.reg rs1).toNat * 2 ^ shamt.toNat)) ∧
      encode (.lhu rd rs1 shamt) = 0#7 ++ shamt ++ rs1 ++ 5#3 ++ rd ++ Config.opcLoad ∧
      LoadsFrom (.lhu rd rs1 shamt) s rd (BitVec.ofNat 32 ((s.reg rs1).toNat / 2 ^ shamt.toNat)) ∧
      encode (.lhuNz rd rs1 shamt funct7) = funct7 ++ shamt ++ rs1 ++ 5#3 ++ rd ++ Config.opcLoad ∧
      ((Instr.lhuNz rd rs1 shamt funct7).wf = true ↔ funct7 ≠ 0#7) ∧
      LoadsFrom (.lhuNz rd rs1 shamt funct7) s rd (wrap ((s.reg rs1).toInt / 2 ^ shamt.toNat)) ∧
      ((s.reg rs1).toInt < 0 → ¬InDataSpace (wrap ((s.reg rs1).toInt / 2 ^ shamt.toNat)))

/-- R163, R164: LW loads cell 1 if x[rs1] is less than the immediate, signed, else cell 0 (C1); LOAD.F3 loads cell 0. Neither
can fault. C1 is the spec's resolution of a conflict of its source (log entry 16). -/
def Obligations.LwAndLoadF3ReachOnlyCellsZeroAndOne : Prop :=
  ∀ (rd rs1 : RegIdx) (imm12 : BitVec 12) (s : State),
    encode (.lw rd rs1 imm12) = imm12 ++ rs1 ++ 2#3 ++ rd ++ Config.opcLoad ∧
      Writes (.lw rd rs1 imm12) s rd (Memory.read s.dmem (if (s.reg rs1).toInt < imm12.toInt then 1 else 0)) ∧
      encode (.loadF3 rd rs1 imm12) = imm12 ++ rs1 ++ 3#3 ++ rd ++ Config.opcLoad ∧
      Writes (.loadF3 rd rs1 imm12) s rd (Memory.read s.dmem 0)

/-- R165, R168, R169: LBU, LOAD.F6 and LOAD.F7 load the cell at x[rs1] xor, or, and the sign-extended immediate. Out of range
they take the fault; LOAD.F7 cannot where the immediate is 0 to 1023. The fault's effect is the spec's decision D4 (log entry
5). -/
def Obligations.LogicLoadsFromTheCombinedAddress : Prop :=
  ∀ (rd rs1 : RegIdx) (imm12 : BitVec 12) (s : State),
    encode (.lbu rd rs1 imm12) = imm12 ++ rs1 ++ 4#3 ++ rd ++ Config.opcLoad ∧
      LoadsFrom (.lbu rd rs1 imm12) s rd (s.reg rs1 ^^^ wrap imm12.toInt) ∧
      encode (.loadF6 rd rs1 imm12) = imm12 ++ rs1 ++ 6#3 ++ rd ++ Config.opcLoad ∧
      LoadsFrom (.loadF6 rd rs1 imm12) s rd (s.reg rs1 ||| wrap imm12.toInt) ∧
      encode (.loadF7 rd rs1 imm12) = imm12 ++ rs1 ++ 7#3 ++ rd ++ Config.opcLoad ∧
      LoadsFrom (.loadF7 rd rs1 imm12) s rd (s.reg rs1 &&& wrap imm12.toInt) ∧
      (0 ≤ imm12.toInt → imm12.toInt ≤ 1023 → InDataSpace (s.reg rs1 &&& wrap imm12.toInt))

/-! ### Stores -/

/-- R175, R176, R180, R183: SB, SB.NZ, STORE.F4 and STORE.F6 store x[rs2] to the cell at x[rs1]; the offset bits are ignored.
Out of range they take the fault. The immediate 0, the fault's effect and the record without a last-written index are the
spec's decisions D20, D4 and D12 (log entries 3, 5 and 13). -/
def Obligations.PlainStoresUseRs1AsTheCell : Prop :=
  ∀ (rs1 rs2 rd : RegIdx) (funct7 : BitVec 7) (s : State),
    encode (.sb rs1 rs2 rd) = 0#7 ++ rs2 ++ rs1 ++ 0#3 ++ rd ++ Config.opcStore ∧
      StoresTo (.sb rs1 rs2 rd) s rs2 (s.reg rs1) ∧
      encode (.sbNz rs1 rs2 rd funct7) = funct7 ++ rs2 ++ rs1 ++ 0#3 ++ rd ++ Config.opcStore ∧
      ((Instr.sbNz rs1 rs2 rd funct7).wf = true ↔ funct7 ≠ 0#7) ∧
      StoresTo (.sbNz rs1 rs2 rd funct7) s rs2 (s.reg rs1) ∧
      encode (.storeF4 rs1 rs2 rd funct7) = funct7 ++ rs2 ++ rs1 ++ 4#3 ++ rd ++ Config.opcStore ∧
      StoresTo (.storeF4 rs1 rs2 rd funct7) s rs2 (s.reg rs1) ∧
      encode (.storeF6 rs1 rs2 rd funct7) = funct7 ++ rs2 ++ rs1 ++ 6#3 ++ rd ++ Config.opcStore ∧
      StoresTo (.storeF6 rs1 rs2 rd funct7) s rs2 (s.reg rs1)

/-- R177, R181, R182: SH, STORE.F5 and STORE.F5.NZ store x[rs2] to the cell at x[rs1] shifted by the rs2 field, which is also
the data register's number. Out of range they take the fault; STORE.F5.NZ always does where x[rs1] is negative. The fault's
effect and the record without a last-written index are the spec's decisions D4 and D12 (log entries 5 and 13). -/
def Obligations.ShiftStoresUseTheShiftedBase : Prop :=
  ∀ (rs1 rs2 rd : RegIdx) (funct7 : BitVec 7) (s : State),
    encode (.sh rs1 rs2 rd funct7) = funct7 ++ rs2 ++ rs1 ++ 1#3 ++ rd ++ Config.opcStore ∧
      StoresTo (.sh rs1 rs2 rd funct7) s rs2 (BitVec.ofNat 32 ((s.reg rs1).toNat * 2 ^ rs2.toNat)) ∧
      encode (.storeF5 rs1 rs2 rd) = 0#7 ++ rs2 ++ rs1 ++ 5#3 ++ rd ++ Config.opcStore ∧
      StoresTo (.storeF5 rs1 rs2 rd) s rs2 (BitVec.ofNat 32 ((s.reg rs1).toNat / 2 ^ rs2.toNat)) ∧
      encode (.storeF5Nz rs1 rs2 rd funct7) = funct7 ++ rs2 ++ rs1 ++ 5#3 ++ rd ++ Config.opcStore ∧
      ((Instr.storeF5Nz rs1 rs2 rd funct7).wf = true ↔ funct7 ≠ 0#7) ∧
      StoresTo (.storeF5Nz rs1 rs2 rd funct7) s rs2 (wrap ((s.reg rs1).toInt / 2 ^ rs2.toNat)) ∧
      ((s.reg rs1).toInt < 0 → ¬InDataSpace (wrap ((s.reg rs1).toInt / 2 ^ rs2.toNat)))

/-- R178, R179, R184: SW stores x[rs2] to cell 1 if x[rs1] is negative, else to cell 0; STORE.F3 and STORE.F7 store it to
cell 0, also where x[rs1] is out of range. None can fault. The immediate 0 and the record without a last-written index are
the spec's decisions D20 and D12 (log entries 3 and 13). -/
def Obligations.SwStoreF3StoreF7ReachOnlyCellsZeroAndOne : Prop :=
  ∀ (rs1 rs2 rd : RegIdx) (funct7 : BitVec 7) (s : State),
    encode (.sw rs1 rs2 rd funct7) = funct7 ++ rs2 ++ rs1 ++ 2#3 ++ rd ++ Config.opcStore ∧
      (∃ t, exec (.sw rs1 rs2 rd funct7) s = .next t ∧
        StoredCell (.sw rs1 rs2 rd funct7) s t (if (s.reg rs1).toInt < 0 then 1#32 else 0#32) (s.reg rs2)) ∧
      encode (.storeF3 rs1 rs2 rd funct7) = funct7 ++ rs2 ++ rs1 ++ 3#3 ++ rd ++ Config.opcStore ∧
      (∃ t, exec (.storeF3 rs1 rs2 rd funct7) s = .next t ∧
        StoredCell (.storeF3 rs1 rs2 rd funct7) s t 0#32 (s.reg rs2)) ∧
      encode (.storeF7 rs1 rs2 rd funct7) = funct7 ++ rs2 ++ rs1 ++ 7#3 ++ rd ++ Config.opcStore ∧
      ∃ t, exec (.storeF7 rs1 rs2 rd funct7) s = .next t ∧
        StoredCell (.storeF7 rs1 rs2 rd funct7) s t 0#32 (s.reg rs2)

/-- A store step that completes, followed by a load step that forms the same address, puts the stored register's value into
the load's x[rd], unchanged (R50, R245). -/
def Obligations.StoreThenLoadReturnsTheStoredValue : Prop :=
  ∀ (s t : State) (w w' : Word), s.executing w → (decodeRecord w).opcode = Config.opcStore → step s = .next t →
    t.executing w' → (decodeRecord w').opcode = Config.opcLoad →
    executeStage (decodeRecord w') t = executeStage (decodeRecord w) s →
    ∃ u, step t = .next u ∧ u.runState = .running ∧ u.reg (decodeRecord w').rd = s.reg (decodeRecord w).rs2

/-! ### Words of no recognised class -/

/-- R190, R191, R192: SYSTEM, MISC-MEM and OTHER words write 0 to x[rd] and do nothing else: no trap, no halt, no memory
access; every opcode none of the eleven is OTHER. -/
def Obligations.UnrecognisedWordsClearRd : Prop :=
  ∀ (opcode : BitVec 7) (rd : RegIdx) (hi : BitVec 20) (s : State),
    encode (.system rd hi) = hi ++ rd ++ Config.opcSystem ∧ Writes (.system rd hi) s rd 0#32 ∧
      encode (.miscMem rd hi) = hi ++ rd ++ Config.opcMiscMem ∧ Writes (.miscMem rd hi) s rd 0#32 ∧
      encode (.other opcode rd hi) = hi ++ rd ++ opcode ∧ Writes (.other opcode rd hi) s rd 0#32 ∧
      ((Instr.other opcode rd hi).wf = true ↔
        opcode ∉ [Config.opcLoad, Config.opcMiscMem, Config.opcOpImm, Config.opcAuipc, Config.opcStore, Config.opcOp,
          Config.opcLui, Config.opcBranch, Config.opcJalr, Config.opcJal, Config.opcSystem]) ∧
      ((List.range 128).filter fun n => (Instr.other (BitVec.ofNat 7 n) rd hi).wf).length = 117

/-! ### Host interface -/

/-- The snapshot is write-only: two states that differ only in it step to states that differ at most in it, and report the
same (R30, R31). The spec marks this as derived from R30. -/
def Obligations.SnapshotNeverInfluencesExecution : Prop :=
  ∀ (s : State) (p : Option Snapshot), ∃ t t',
    step s = .next t ∧ step { s with snapshot := p } = .next t' ∧
      { t with snapshot := none } = { t' with snapshot := none } ∧
      (hostStep { s with snapshot := p }).reply = (hostStep s).reply ∧
      (hostStep { s with snapshot := p }).notes = (hostStep s).notes

/-- R204: an executed step emits one record: the registers after writeback, the decoded record, the pc before the advance,
the word, and the register written, none for a store; a halting or a faulting step emits no record. The store's index none is
the spec's decision D12 (log entry 13). -/
def Obligations.ExecutedStepPublishesItsRecord : Prop :=
  ∀ (s : State) (w : Word), s.executing w →
    ((hostStep s).reply = .executed →
      (hostStep s).notes =
        [.perStep
          { regs := (hostStep s).core.x, dec := decodeRecord w, pc := s.pc, word := w,
            lastWritten := if (decodeRecord w).opcode = Config.opcStore then none else some (decodeRecord w).rd }]) ∧
      ((hostStep s).reply ≠ .executed → (hostStep s).notes = [])

/-- R205: the completion notification is emitted by the step that makes the transition Running to Halted and by no other, and
that step changes nothing else. Once only is the spec's decision D9 (log entry 10). -/
def Obligations.CompletionIsEmittedOnlyByTheTransition : Prop :=
  ∀ s : State,
    (Notification.completion ∈ (hostStep s).notes ↔ s.runState = .running ∧ (hostStep s).core.runState = .halted) ∧
      (Notification.completion ∈ (hostStep s).notes →
        (hostStep s).notes = [.completion] ∧ (hostStep s).core = { s with runState := .halted } ∧
          (hostStep (hostStep s).core).notes = [])

/-- R200: loadProgram maps word i, wrapped to 32 bits, at address 4i and nothing anywhere else, and changes nothing else; a
list longer than the bound is outside the model and refused (U20, log entry 9). The bound and the reading of negative
elements are the spec's decisions D8 and D18. -/
def Obligations.LoadProgramInstallsTheImage : Prop :=
  ∀ (words : List Int) (s : State),
    (words.length ≤ 2 ^ 29 - 1 → ∃ t, loadProgram words s = .next t ∧ t = { s with imem := t.imem } ∧
      (∀ i, fetchAt t.imem (4 * i) = words[i]?.map wrap) ∧ ∀ a, a % 4 ≠ 0 → fetchAt t.imem a = none) ∧
      (2 ^ 29 - 1 < words.length → loadProgram words s = .refused (.programTooLong words.length))

/-- R201: an image replaced between steps takes effect at the next fetch, at the unchanged pc; the core halts at once if pc
is 4N or more; in Halted or Faulted it is never executed. The reading of the source's two sentences is the spec's decision
D10 (log entry 11). -/
def Obligations.ReplacedImageRunsFromTheSamePc : Prop :=
  ∀ (words : List Int) (s t : State), loadProgram words s = .next t → s.pc % 4 = 0 →
    t.pc = s.pc ∧ t.fetch = words[s.pc / 4]?.map wrap ∧
      (s.runState = .running → 4 * words.length ≤ s.pc → step t = .next { t with runState := .halted }) ∧
      (s.runState ≠ .running → step t = .next t ∧ t.runState = s.runState)

/-- `run` starts a worker exactly where the rate is finite and positive and none is active; it never touches the core, and a
second run changes nothing (R203, R208, D11, D21). -/
def Obligations.RunStartsAWorkerOnlyOnAValidRate : Prop :=
  ∀ (y : System) (rate : Rate),
    (y.move (.run rate)).system.core = y.core ∧ (y.move (.run rate)).notes = [] ∧
      (y.worker = true → (y.move (.run rate)).system = y) ∧
      (y.worker = false →
        ((y.move (.run rate)).system.worker = true ↔ ∃ q : Rat, rate = .finite q ∧ 0 < q))

/-- The worker's step is the caller's step: same core, same reply, same notifications; the caller's leaves the worker active, and
the worker stops after its first step that does not execute (R203, R206, R209). -/
def Obligations.BothContextsTakeTheSameStep : Prop :=
  ∀ y : System, y.worker = true →
    (y.move .workerStep).system.core = (y.move .step).system.core ∧
      (y.move .workerStep).reply = (y.move .step).reply ∧ (y.move .workerStep).notes = (y.move .step).notes ∧
      (y.move .step).system.worker = true ∧
      ((y.move .workerStep).system.worker = true ↔ (y.move .workerStep).system.core.runState = .running)

/-- Auto-run for k steps ends in the state that k manual steps end in (R203, R206, R247). That auto-run is the same as manual
steps is the spec's decision D19 (log entry 15), and that it stops at a fault is D4 (log entry 5). -/
def Obligations.AutoRunEndsWhereManualStepsEnd : Prop :=
  ∀ (k : Nat) (s : State), core.run k s = .next (autoRun k s).1
end

