-- ==== Sys2Proof/Laws/State.lean ====
section
/-!
SUPPORT. What each state update does to each field, true by rfl, so that no later proof unfolds an update.
-/

namespace Sys2Proof.Machine

/-! ### setReg -/

@[simp] theorem State.setReg_x (s : State) (r : RegIdx) (v : Word) : (s.setReg r v).x = s.x.set r.toNat v r.isLt := rfl
@[simp] theorem State.setReg_pc (s : State) (r : RegIdx) (v : Word) : (s.setReg r v).pc = s.pc := rfl
@[simp] theorem State.setReg_dmem (s : State) (r : RegIdx) (v : Word) : (s.setReg r v).dmem = s.dmem := rfl
@[simp] theorem State.setReg_runState (s : State) (r : RegIdx) (v : Word) : (s.setReg r v).runState = s.runState := rfl
@[simp] theorem State.setReg_imem (s : State) (r : RegIdx) (v : Word) : (s.setReg r v).imem = s.imem := rfl
@[simp] theorem State.setReg_snapshot (s : State) (r : RegIdx) (v : Word) : (s.setReg r v).snapshot = s.snapshot := rfl

/-- A register reads back what was written to it, register 0 too (R10, R20). -/
@[simp] theorem State.setReg_reg_same (s : State) (r : RegIdx) (v : Word) : (s.setReg r v).reg r = v := by
  simp [State.reg, State.setReg]

/-- Writing one register leaves every other as it was (R20). -/
theorem State.setReg_reg_ne (s : State) (r q : RegIdx) (v : Word) (h : q ≠ r) : (s.setReg r v).reg q = s.reg q := by
  have : r.toNat ≠ q.toNat := fun e => h (BitVec.eq_of_toNat_eq e.symm)
  simp [State.reg, State.setReg, Vector.getElem_set_ne, this]

/-! ### halt -/

@[simp] theorem State.halt_x (s : State) : s.halt.x = s.x := rfl
@[simp] theorem State.halt_pc (s : State) : s.halt.pc = s.pc := rfl
@[simp] theorem State.halt_dmem (s : State) : s.halt.dmem = s.dmem := rfl
@[simp] theorem State.halt_runState (s : State) : s.halt.runState = .halted := rfl
@[simp] theorem State.halt_imem (s : State) : s.halt.imem = s.imem := rfl
@[simp] theorem State.halt_snapshot (s : State) : s.halt.snapshot = s.snapshot := rfl
@[simp] theorem State.halt_reg (s : State) (q : RegIdx) : s.halt.reg q = s.reg q := rfl

/-! ### takeFault -/

@[simp] theorem takeFault_x (a : Word) (s : State) : (takeFault a s).x = s.x := rfl
@[simp] theorem takeFault_pc (a : Word) (s : State) : (takeFault a s).pc = s.pc := rfl
@[simp] theorem takeFault_dmem (a : Word) (s : State) : (takeFault a s).dmem = s.dmem := rfl
@[simp] theorem takeFault_runState (a : Word) (s : State) : (takeFault a s).runState = .faulted a := rfl
@[simp] theorem takeFault_imem (a : Word) (s : State) : (takeFault a s).imem = s.imem := rfl
@[simp] theorem takeFault_snapshot (a : Word) (s : State) : (takeFault a s).snapshot = s.snapshot := rfl
@[simp] theorem takeFault_reg (a : Word) (s : State) (q : RegIdx) : (takeFault a s).reg q = s.reg q := rfl

/-! ### complete -/

@[simp] theorem complete_x (i : Instr) (written : Option RegIdx) (s : State) : (complete i written s).x = s.x := rfl
@[simp] theorem complete_pc (i : Instr) (written : Option RegIdx) (s : State) : (complete i written s).pc = s.pc + 4 := rfl
@[simp] theorem complete_dmem (i : Instr) (written : Option RegIdx) (s : State) : (complete i written s).dmem = s.dmem := rfl
@[simp] theorem complete_runState (i : Instr) (written : Option RegIdx) (s : State) : (complete i written s).runState = s.runState := rfl
@[simp] theorem complete_imem (i : Instr) (written : Option RegIdx) (s : State) : (complete i written s).imem = s.imem := rfl
@[simp] theorem complete_snapshot (i : Instr) (written : Option RegIdx) (s : State) : (complete i written s).snapshot = some { regs := s.x, dec := decodeRecord (encode i), pc := s.pc, word := encode i, lastWritten := written } := rfl
@[simp] theorem complete_reg (i : Instr) (written : Option RegIdx) (s : State) (q : RegIdx) : (complete i written s).reg q = s.reg q := rfl

/-! ### A data-memory or image update, and reset -/

@[simp] theorem State.withDmem_reg (s : State) (m : Memory) (q : RegIdx) : State.reg { s with dmem := m } q = s.reg q := rfl
@[simp] theorem State.withImem_reg (s : State) (ws : List Word) (q : RegIdx) : State.reg { s with imem := ws } q = s.reg q := rfl
@[simp] theorem State.withRunState_reg (s : State) (r : RunState) (q : RegIdx) : State.reg { s with runState := r } q = s.reg q := rfl
@[simp] theorem State.withSnapshot_reg (s : State) (p : Option Snapshot) (q : RegIdx) :
    State.reg { s with snapshot := p } q = s.reg q := rfl

@[simp] theorem State.resetWith_pc (m : Memory) : (State.resetWith m).pc = 0 := rfl
@[simp] theorem State.resetWith_dmem (m : Memory) : (State.resetWith m).dmem = m := rfl
@[simp] theorem State.resetWith_runState (m : Memory) : (State.resetWith m).runState = .running := rfl
@[simp] theorem State.resetWith_imem (m : Memory) : (State.resetWith m).imem = [] := rfl
@[simp] theorem State.resetWith_snapshot (m : Memory) : (State.resetWith m).snapshot = none := rfl
@[simp] theorem State.resetWith_reg (m : Memory) (r : RegIdx) : (State.resetWith m).reg r = 0#32 := by
  simp [State.reg, State.resetWith]

end Sys2Proof.Machine
end

