-- ==== Sys2Proof/Laws/Memory.lean ====
section
/-!
SUPPORT. Data memory: read after write (R43, R50), that every operation keeps the canonical form, and
what a memory access of the machine can answer (R42).
-/

namespace Sys2Proof.Machine

theorem Memory.read_insert_same (m : Memory) (i : Nat) (v : Word) : Memory.read (Memory.insert m i v) i = v := by
  induction m with
  | nil => simp [Memory.insert, Memory.read]
  | cons c rest ih =>
    simp only [Memory.insert]
    split
    · simp [Memory.read]
    · split
      · simp [Memory.read]
      · have : c.1 ≠ i := by omega
        simp [Memory.read, this, ih]

theorem Memory.read_insert_ne (m : Memory) (i j : Nat) (v : Word) (h : j ≠ i) :
    Memory.read (Memory.insert m i v) j = Memory.read m j := by
  induction m with
  | nil => simp [Memory.insert, Memory.read, Ne.symm h]
  | cons c rest ih =>
    simp only [Memory.insert]
    split
    · simp [Memory.read, Ne.symm h]
    · split
      · rename_i e
        have : c.1 ≠ j := by omega
        simp [Memory.read, Ne.symm h, this]
      · simp [Memory.read, ih]

theorem Memory.read_erase_same (m : Memory) (i : Nat) : Memory.read (Memory.erase m i) i = Config.dmemInit i := by
  induction m with
  | nil => rfl
  | cons c rest ih =>
    simp only [Memory.erase, List.filter] at ih ⊢
    split
    · rename_i e
      have : c.1 ≠ i := by simpa using e
      simp [Memory.read, this, ih]
    · exact ih

theorem Memory.read_erase_ne (m : Memory) (i j : Nat) (h : j ≠ i) :
    Memory.read (Memory.erase m i) j = Memory.read m j := by
  induction m with
  | nil => rfl
  | cons c rest ih =>
    simp only [Memory.erase, List.filter] at ih ⊢
    split
    · simp [Memory.read, ih]
    · rename_i e
      have : c.1 ≠ j := by
        have : c.1 = i := by simpa using e
        omega
      simp [Memory.read, this, ih]

/-- A cell reads back what was written to it, in every list, canonical or not (R50). -/
@[simp] theorem Memory.read_write_same (m : Memory) (i : Nat) (v : Word) : Memory.read (Memory.write m i v) i = v := by
  unfold Memory.write
  split
  · rename_i e; rw [Memory.read_erase_same, e]
  · exact Memory.read_insert_same m i v

/-- Writing one cell leaves every other as it was (R43). -/
theorem Memory.read_write_ne (m : Memory) (i j : Nat) (v : Word) (h : j ≠ i) :
    Memory.read (Memory.write m i v) j = Memory.read m j := by
  unfold Memory.write
  split
  · exact Memory.read_erase_ne m i j h
  · exact Memory.read_insert_ne m i j v h

/-! ### The canonical form -/

theorem Memory.sorted_iff (m : Memory) : Memory.sorted m = true ↔ m.Pairwise fun c d => c.1 < d.1 := by
  induction m with
  | nil => simp [Memory.sorted]
  | cons c rest ih =>
    cases rest with
    | nil => simp [Memory.sorted]
    | cons d rest =>
      simp only [Memory.sorted, Bool.and_eq_true, decide_eq_true_eq, ih, List.pairwise_cons, List.mem_cons,
        forall_eq_or_imp]
      constructor
      · rintro ⟨h, h2, h3⟩
        exact ⟨⟨h, fun e he => lt_trans h (h2 e he)⟩, h2, h3⟩
      · rintro ⟨⟨h, -⟩, h2, h3⟩
        exact ⟨h, h2, h3⟩

theorem Memory.wf_iff (m : Memory) :
    Memory.wf m = true ↔
      m.Pairwise (fun c d => c.1 < d.1) ∧ ∀ c ∈ m, c.1 < Config.dmemWords ∧ c.2 ≠ Config.dmemInit c.1 := by
  simp [Memory.wf, Memory.sorted_iff, List.all_eq_true]

theorem Memory.mem_insert {m : Memory} {i : Nat} {v : Word} {c : Nat × Word} (h : c ∈ Memory.insert m i v) :
    c = (i, v) ∨ c ∈ m := by
  induction m with
  | nil => simpa [Memory.insert] using h
  | cons d rest ih =>
    simp only [Memory.insert] at h
    split at h
    · simpa using h
    · split at h
      · rcases List.mem_cons.mp h with h | h
        · exact .inl h
        · exact .inr (List.mem_cons_of_mem _ h)
      · rcases List.mem_cons.mp h with h | h
        · exact .inr (h ▸ List.mem_cons_self)
        · exact (ih h).imp id (List.mem_cons_of_mem _)

theorem Memory.sorted_insert {m : Memory} (h : m.Pairwise fun c d => c.1 < d.1) (i : Nat) (v : Word) :
    (Memory.insert m i v).Pairwise fun c d => c.1 < d.1 := by
  induction m with
  | nil => simp [Memory.insert]
  | cons d rest ih =>
    obtain ⟨h1, h2⟩ := List.pairwise_cons.mp h
    simp only [Memory.insert]
    split
    · rename_i hi
      exact List.pairwise_cons.mpr ⟨fun c hc => by
        rcases List.mem_cons.mp hc with rfl | hc
        · exact hi
        · exact lt_trans hi (h1 c hc), h⟩
    · split
      · rename_i e
        exact List.pairwise_cons.mpr ⟨fun c hc => by simpa [e] using h1 c hc, h2⟩
      · refine List.pairwise_cons.mpr ⟨fun c hc => ?_, ih h2⟩
        rcases Memory.mem_insert hc with rfl | hc
        · simp; omega
        · exact h1 c hc

/-- A write to a cell that exists keeps the canonical form. -/
theorem Memory.write_wf {m : Memory} (h : Memory.wf m = true) {i : Nat} (hi : i < Config.dmemWords) (v : Word) :
    Memory.wf (Memory.write m i v) = true := by
  rw [Memory.wf_iff] at h ⊢
  unfold Memory.write
  split
  · exact ⟨h.1.filter _, fun c hc => h.2 c (List.mem_filter.mp hc).1⟩
  · rename_i hv
    refine ⟨Memory.sorted_insert h.1 i v, fun c hc => ?_⟩
    rcases Memory.mem_insert hc with rfl | hc
    · exact ⟨hi, hv⟩
    · exact h.2 c hc

/-- Data memory at reset is in canonical form. -/
theorem State.reset_dmem_wf : Memory.wf State.reset.dmem = true := rfl

/-! ### The machine's accesses -/

theorem inRange_iff (a : Word) : inRange a = true ↔ 0 ≤ a.toInt ∧ a.toInt < 1024 := by
  unfold inRange Config.dmemWords
  exact decide_eq_true_iff

theorem cellOf_lt {a : Word} (h : inRange a = true) : cellOf a < Config.dmemWords := by
  have := (inRange_iff a).mp h
  simp only [cellOf, Config.dmemWords]
  omega

theorem State.memRead_of_inRange {s : State} {a : Word} (h : inRange a = true) :
    s.memRead a = some (Memory.read s.dmem (cellOf a)) := by
  simp [State.memRead, h]

theorem State.memRead_of_not {s : State} {a : Word} (h : inRange a = false) : s.memRead a = none := by
  simp [State.memRead, h]

theorem State.memWrite_of_inRange {s : State} {a : Word} (v : Word) (h : inRange a = true) :
    s.memWrite a v = some { s with dmem := Memory.write s.dmem (cellOf a) v } := by
  simp [State.memWrite, h]

theorem State.memWrite_of_not {s : State} {a : Word} (v : Word) (h : inRange a = false) : s.memWrite a v = none := by
  simp [State.memWrite, h]

end Sys2Proof.Machine
end

