-- ==== Sys2Proof/Laws/Exec.lean ====
section
/-!
SUPPORT. What an instruction can do, said once: it writes one register, or it stores one cell, or it
takes the fault (R98, R99, R102); and the step around it.
-/

namespace Sys2Proof.Machine

theorem writeResult_eq (i : Instr) (rd : RegIdx) (v : Word) (s : State) :
    writeResult i rd v s = .next (complete i (some rd) (s.setReg rd v)) := rfl

theorem loadCell_of_inRange {i : Instr} {rd : RegIdx} {a : Word} {s : State} (h : inRange a = true) :
    loadCell i rd a s = .next (complete i (some rd) (s.setReg rd (Memory.read s.dmem (cellOf a)))) := by
  simp [loadCell, State.memRead_of_inRange h, writeResult_eq]

theorem loadCell_of_not {i : Instr} {rd : RegIdx} {a : Word} {s : State} (h : inRange a = false) :
    loadCell i rd a s = .next (takeFault a s) := by
  simp [loadCell, State.memRead_of_not h]

theorem storeCell_of_inRange {i : Instr} {rs2 : RegIdx} {a : Word} {s : State} (h : inRange a = true) :
    storeCell i rs2 a s =
      .next (complete i none { s with dmem := Memory.write s.dmem (cellOf a) (s.reg rs2) }) := by
  simp [storeCell, State.memWrite_of_inRange _ h]

theorem storeCell_of_not {i : Instr} {rs2 : RegIdx} {a : Word} {s : State} (h : inRange a = false) :
    storeCell i rs2 a s = .next (takeFault a s) := by
  simp [storeCell, State.memWrite_of_not _ h]

/-- What one instruction did. -/
inductive Effect (i : Instr) (s : State) : State → Prop where
  /-- one register written, record published, pc advanced -/
  | wrote (rd : RegIdx) (v : Word) : Effect i s (complete i (some rd) (s.setReg rd v))
  /-- one existing cell stored, record published, pc advanced -/
  | stored (a v : Word) (h : inRange a = true) :
      Effect i s (complete i none { s with dmem := Memory.write s.dmem (cellOf a) v })
  /-- the fault taken at an address that names no cell -/
  | faulted (a : Word) (h : inRange a = false) : Effect i s (takeFault a s)

theorem loadCell_effect (i : Instr) (rd : RegIdx) (a : Word) (s : State) :
    ∃ t, loadCell i rd a s = .next t ∧ Effect i s t := by
  cases h : inRange a
  · exact ⟨_, loadCell_of_not h, .faulted a h⟩
  · exact ⟨_, loadCell_of_inRange h, .wrote _ _⟩

theorem storeCell_effect (i : Instr) (rs2 : RegIdx) (a : Word) (s : State) :
    ∃ t, storeCell i rs2 a s = .next t ∧ Effect i s t := by
  cases h : inRange a
  · exact ⟨_, storeCell_of_not h, .faulted a h⟩
  · exact ⟨_, storeCell_of_inRange h, .stored _ _ h⟩

theorem writeResult_effect (i : Instr) (rd : RegIdx) (v : Word) (s : State) :
    ∃ t, writeResult i rd v s = .next t ∧ Effect i s t :=
  ⟨_, rfl, .wrote rd v⟩

/-- Every instruction answers a next state, by one of the three effects. -/
theorem exec_effect (i : Instr) (s : State) : ∃ t, exec i s = .next t ∧ Effect i s t := by
  cases i
  case storeF3 => unfold exec execStoreF3; exact storeCell_effect _ _ _ _
  all_goals
    first
    | exact writeResult_effect _ _ _ _
    | exact loadCell_effect _ _ _ _
    | exact storeCell_effect _ _ _ _

theorem effect_of_exec {i : Instr} {s t : State} (h : exec i s = .next t) : Effect i s t := by
  obtain ⟨u, hu, he⟩ := exec_effect i s
  rw [h] at hu
  cases hu
  exact he

/-! ### The step -/

theorem fetchAt_eq (imem : List Word) (a : Nat) : fetchAt imem a = if a % 4 = 0 then imem[a / 4]? else none := by
  simp [fetchAt, Config.imemBase]

theorem step_of_halted {s : State} (h : s.runState = .halted) : step s = .next s := by simp [step, h]

theorem step_of_faulted {s : State} {a : Word} (h : s.runState = .faulted a) : step s = .next s := by simp [step, h]

theorem step_of_unmapped {s : State} (h : s.runState = .running) (hf : s.fetch = none) : step s = .next s.halt := by
  simp [step, h, hf]

theorem step_of_fetch {s : State} {w : Word} (h : s.runState = .running) (hf : s.fetch = some w) :
    step s = exec (decode w) s := by
  simp [step, h, hf]

/-- What one step did: nothing in a terminal state, the halting step, or the fetched instruction's effect. -/
theorem step_cases {s t : State} (h : step s = .next t) :
    (s.runState ≠ .running ∧ t = s) ∨ (s.runState = .running ∧ s.fetch = none ∧ t = s.halt) ∨
      ∃ w, s.runState = .running ∧ s.fetch = some w ∧ exec (decode w) s = .next t ∧ Effect (decode w) s t := by
  cases hr : s.runState with
  | halted => rw [step_of_halted hr] at h; cases h; exact .inl ⟨by simp, rfl⟩
  | faulted a => rw [step_of_faulted hr] at h; cases h; exact .inl ⟨by simp, rfl⟩
  | running =>
    cases hf : s.fetch with
    | none => rw [step_of_unmapped hr hf] at h; cases h; exact .inr (.inl ⟨rfl, rfl, rfl⟩)
    | some w => rw [step_of_fetch hr hf] at h; exact .inr (.inr ⟨w, rfl, rfl, h, effect_of_exec h⟩)

end Sys2Proof.Machine
end

