-- ==== Sys2Proof/Laws/Decode.lean ====
section
/-!
SUPPORT. Field extraction against field packing (R61), and the immediates of the operand forms.
-/

namespace Sys2Proof

/-- The six fields of a packed word are the six fields packed (R61). -/
@[simp] theorem fieldsOf_packFields (f : Fields) : fieldsOf (packFields f) = f := by
  obtain ⟨opcode, rd, funct3, rs1, rs2, funct7⟩ := f
  simp only [fieldsOf, packFields, Fields.mk.injEq]
  refine ⟨?_, ?_, ?_, ?_, ?_, ?_⟩ <;>
    · ext k hk
      rw [BitVec.getElem_extractLsb']
      simp only [BitVec.getLsbD_append]
      interval_cases k <;> simp

/-- Twelve immediate bits cut at funct7 and rs2 and put together again (R67). -/
theorem imm12_parts (i : BitVec 12) : i.extractLsb' 5 7 ++ i.extractLsb' 0 5 = i := by
  ext k hk
  simp only [BitVec.getElem_append, BitVec.getElem_extractLsb']
  interval_cases k <;> simp

/-- The twenty bits w[31:12] cut at funct7, rs2, rs1 and funct3 and put together again (R61). -/
theorem imm20_parts (i : BitVec 20) :
    i.extractLsb' 13 7 ++ i.extractLsb' 8 5 ++ i.extractLsb' 3 5 ++ i.extractLsb' 0 3 = i := by
  ext k hk
  simp only [BitVec.getElem_append, BitVec.getElem_extractLsb']
  interval_cases k <;> simp

theorem packFields_fieldsR (o : BitVec 7) (g : BitVec 3) (rd a b : RegIdx) (f : BitVec 7) :
    packFields (fieldsR o g rd a b f) = f ++ b ++ a ++ g ++ rd ++ o := rfl

theorem packFields_fieldsI (o : BitVec 7) (g : BitVec 3) (rd a : RegIdx) (i : BitVec 12) :
    packFields (fieldsI o g rd a i) = i ++ a ++ g ++ rd ++ o := by
  unfold packFields fieldsI immFunct7
  rw [imm12_parts]

theorem packFields_fieldsHi (o : BitVec 7) (rd : RegIdx) (i : BitVec 20) :
    packFields (fieldsHi o rd i) = i ++ rd ++ o := by
  unfold packFields fieldsHi
  rw [imm20_parts]

end Sys2Proof
end

