-- ==== Sys2Proof/Laws/Effects.lean ====
section
/-!
SUPPORT. The three ways an instruction ends, in the terms of the statements: what `writeResult`,
`loadCell` and `storeCell` change and what they leave alone.
-/

namespace Sys2Proof.Machine

/-- Writeback, publish and advance, seen through the accessors. -/
theorem wroteRegister_complete (i : Instr) (rd : RegIdx) (v : Word) (s : State) :
    WroteRegister i s (complete i (some rd) (s.setReg rd v)) rd v :=
  ⟨by simp, fun r h => by simp [State.setReg_reg_ne s rd r v h], fun _ => rfl, rfl, rfl, rfl, rfl⟩

theorem storedCell_complete (i : Instr) (a v : Word) (s : State) :
    StoredCell i s (complete i none { s with dmem := Memory.write s.dmem (cellOf a) v }) a v :=
  ⟨Memory.read_write_same _ _ _, fun c h => Memory.read_write_ne _ _ c _ h, fun _ => rfl, rfl, rfl, rfl, rfl⟩

theorem faultedAt_takeFault (a : Word) (s : State) : FaultedAt s (takeFault a s) a :=
  ⟨rfl, fun _ => rfl, fun _ => rfl, rfl, rfl, rfl⟩

theorem inRange_of_inDataSpace {a : Word} (h : InDataSpace a) : inRange a = true := (inRange_iff a).mpr h

theorem inRange_of_not_inDataSpace {a : Word} (h : ¬InDataSpace a) : inRange a = false := by
  cases e : inRange a
  · rfl
  · exact absurd ((inRange_iff a).mp e) h

/-- A meaning that is one writeback always completes, with that value. -/
theorem writes_of_eq {i : Instr} {s : State} {rd : RegIdx} {v : Word} (h : exec i s = writeResult i rd v s) :
    Writes i s rd v :=
  ⟨_, h.trans (writeResult_eq ..), wroteRegister_complete ..⟩

/-- A meaning that is one load completes in range and faults out of it. -/
theorem loadsFrom_of_eq {i : Instr} {s : State} {rd : RegIdx} {a : Word} (h : exec i s = loadCell i rd a s) :
    LoadsFrom i s rd a :=
  ⟨fun ha => ⟨_, h.trans (loadCell_of_inRange (inRange_of_inDataSpace ha)), wroteRegister_complete ..⟩,
   fun ha => ⟨_, h.trans (loadCell_of_not (inRange_of_not_inDataSpace ha)), faultedAt_takeFault ..⟩⟩

/-- A meaning that is one store completes in range and faults out of it. -/
theorem storesTo_of_eq {i : Instr} {s : State} {rs2 : RegIdx} {a : Word} (h : exec i s = storeCell i rs2 a s) :
    StoresTo i s rs2 a :=
  ⟨fun ha => ⟨_, h.trans (storeCell_of_inRange (inRange_of_inDataSpace ha)), storedCell_complete ..⟩,
   fun ha => ⟨_, h.trans (storeCell_of_not (inRange_of_not_inDataSpace ha)), faultedAt_takeFault ..⟩⟩

end Sys2Proof.Machine
end

