-- ==== Sys2Proof/Laws/PerInstr.lean ====
section
/-!
SUPPORT. One lemma per constructor: the word that `encode` gives an instruction has exactly the fields
that its row fixes and its operands give (R61, R71).
-/

namespace Sys2Proof.Laws.EncodedFields

/-- Cutting the instruction's word into six fields gives the instruction's fields (R61, R76). -/
def Statement (i : Instr) : Prop := fieldsOf (encode i) = instrFields i

theorem lui (rd : RegIdx) (imm20 : BitVec 20) : Statement (.lui rd imm20) := fieldsOf_packFields _
theorem auipc (rd : RegIdx) (imm20 : BitVec 20) : Statement (.auipc rd imm20) := fieldsOf_packFields _
theorem jal (rd : RegIdx) (imm20 : BitVec 20) : Statement (.jal rd imm20) := fieldsOf_packFields _
theorem jalr (rd rs1 : RegIdx) (funct3 : BitVec 3) (imm12 : BitVec 12) : Statement (.jalr rd rs1 funct3 imm12) := fieldsOf_packFields _
theorem beq (rs1 rs2 rd : RegIdx) (funct7 : BitVec 7) : Statement (.beq rs1 rs2 rd funct7) := fieldsOf_packFields _
theorem bne (rs1 rs2 rd : RegIdx) (funct7 : BitVec 7) : Statement (.bne rs1 rs2 rd funct7) := fieldsOf_packFields _
theorem blt (rs1 rs2 rd : RegIdx) (funct7 : BitVec 7) : Statement (.blt rs1 rs2 rd funct7) := fieldsOf_packFields _
theorem bge (rs1 rs2 rd : RegIdx) (funct7 : BitVec 7) : Statement (.bge rs1 rs2 rd funct7) := fieldsOf_packFields _
theorem bltu (rs1 rs2 rd : RegIdx) (funct7 : BitVec 7) : Statement (.bltu rs1 rs2 rd funct7) := fieldsOf_packFields _
theorem bgeu (rs1 rs2 rd : RegIdx) (funct7 : BitVec 7) : Statement (.bgeu rs1 rs2 rd funct7) := fieldsOf_packFields _
theorem branchF2 (rs1 rs2 rd : RegIdx) (funct7 : BitVec 7) : Statement (.branchF2 rs1 rs2 rd funct7) := fieldsOf_packFields _
theorem branchF3 (rs1 rs2 rd : RegIdx) (funct7 : BitVec 7) : Statement (.branchF3 rs1 rs2 rd funct7) := fieldsOf_packFields _
theorem addi (rd rs1 : RegIdx) (imm5 : BitVec 5) : Statement (.addi rd rs1 imm5) := fieldsOf_packFields _
theorem addiNz (rd rs1 : RegIdx) (imm12 : BitVec 12) : Statement (.addiNz rd rs1 imm12) := fieldsOf_packFields _
theorem slli (rd rs1 shamt : RegIdx) (funct7 : BitVec 7) : Statement (.slli rd rs1 shamt funct7) := fieldsOf_packFields _
theorem slti (rd rs1 : RegIdx) (imm12 : BitVec 12) : Statement (.slti rd rs1 imm12) := fieldsOf_packFields _
theorem sltiu (rd rs1 : RegIdx) (imm12 : BitVec 12) : Statement (.sltiu rd rs1 imm12) := fieldsOf_packFields _
theorem xori (rd rs1 : RegIdx) (imm12 : BitVec 12) : Statement (.xori rd rs1 imm12) := fieldsOf_packFields _
theorem srli (rd rs1 shamt : RegIdx) : Statement (.srli rd rs1 shamt) := fieldsOf_packFields _
theorem srai (rd rs1 shamt : RegIdx) (funct7 : BitVec 7) : Statement (.srai rd rs1 shamt funct7) := fieldsOf_packFields _
theorem ori (rd rs1 : RegIdx) (imm12 : BitVec 12) : Statement (.ori rd rs1 imm12) := fieldsOf_packFields _
theorem andi (rd rs1 : RegIdx) (imm12 : BitVec 12) : Statement (.andi rd rs1 imm12) := fieldsOf_packFields _
theorem add (rd rs1 rs2 : RegIdx) : Statement (.add rd rs1 rs2) := fieldsOf_packFields _
theorem sub (rd rs1 rs2 : RegIdx) (funct7 : BitVec 7) : Statement (.sub rd rs1 rs2 funct7) := fieldsOf_packFields _
theorem sll (rd rs1 rs2 : RegIdx) (funct7 : BitVec 7) : Statement (.sll rd rs1 rs2 funct7) := fieldsOf_packFields _
theorem slt (rd rs1 rs2 : RegIdx) (funct7 : BitVec 7) : Statement (.slt rd rs1 rs2 funct7) := fieldsOf_packFields _
theorem sltu (rd rs1 rs2 : RegIdx) (funct7 : BitVec 7) : Statement (.sltu rd rs1 rs2 funct7) := fieldsOf_packFields _
theorem xor (rd rs1 rs2 : RegIdx) (funct7 : BitVec 7) : Statement (.xor rd rs1 rs2 funct7) := fieldsOf_packFields _
theorem srl (rd rs1 rs2 : RegIdx) : Statement (.srl rd rs1 rs2) := fieldsOf_packFields _
theorem sra (rd rs1 rs2 : RegIdx) (funct7 : BitVec 7) : Statement (.sra rd rs1 rs2 funct7) := fieldsOf_packFields _
theorem or (rd rs1 rs2 : RegIdx) (funct7 : BitVec 7) : Statement (.or rd rs1 rs2 funct7) := fieldsOf_packFields _
theorem and (rd rs1 rs2 : RegIdx) (funct7 : BitVec 7) : Statement (.and rd rs1 rs2 funct7) := fieldsOf_packFields _
theorem lb (rd rs1 : RegIdx) (imm5 : BitVec 5) : Statement (.lb rd rs1 imm5) := fieldsOf_packFields _
theorem lbNz (rd rs1 : RegIdx) (imm12 : BitVec 12) : Statement (.lbNz rd rs1 imm12) := fieldsOf_packFields _
theorem lh (rd rs1 shamt : RegIdx) (funct7 : BitVec 7) : Statement (.lh rd rs1 shamt funct7) := fieldsOf_packFields _
theorem lw (rd rs1 : RegIdx) (imm12 : BitVec 12) : Statement (.lw rd rs1 imm12) := fieldsOf_packFields _
theorem loadF3 (rd rs1 : RegIdx) (imm12 : BitVec 12) : Statement (.loadF3 rd rs1 imm12) := fieldsOf_packFields _
theorem lbu (rd rs1 : RegIdx) (imm12 : BitVec 12) : Statement (.lbu rd rs1 imm12) := fieldsOf_packFields _
theorem lhu (rd rs1 shamt : RegIdx) : Statement (.lhu rd rs1 shamt) := fieldsOf_packFields _
theorem lhuNz (rd rs1 shamt : RegIdx) (funct7 : BitVec 7) : Statement (.lhuNz rd rs1 shamt funct7) := fieldsOf_packFields _
theorem loadF6 (rd rs1 : RegIdx) (imm12 : BitVec 12) : Statement (.loadF6 rd rs1 imm12) := fieldsOf_packFields _
theorem loadF7 (rd rs1 : RegIdx) (imm12 : BitVec 12) : Statement (.loadF7 rd rs1 imm12) := fieldsOf_packFields _
theorem sb (rs1 rs2 rd : RegIdx) : Statement (.sb rs1 rs2 rd) := fieldsOf_packFields _
theorem sbNz (rs1 rs2 rd : RegIdx) (funct7 : BitVec 7) : Statement (.sbNz rs1 rs2 rd funct7) := fieldsOf_packFields _
theorem sh (rs1 rs2 rd : RegIdx) (funct7 : BitVec 7) : Statement (.sh rs1 rs2 rd funct7) := fieldsOf_packFields _
theorem sw (rs1 rs2 rd : RegIdx) (funct7 : BitVec 7) : Statement (.sw rs1 rs2 rd funct7) := fieldsOf_packFields _
theorem storeF3 (rs1 rs2 rd : RegIdx) (funct7 : BitVec 7) : Statement (.storeF3 rs1 rs2 rd funct7) := fieldsOf_packFields _
theorem storeF4 (rs1 rs2 rd : RegIdx) (funct7 : BitVec 7) : Statement (.storeF4 rs1 rs2 rd funct7) := fieldsOf_packFields _
theorem storeF5 (rs1 rs2 rd : RegIdx) : Statement (.storeF5 rs1 rs2 rd) := fieldsOf_packFields _
theorem storeF5Nz (rs1 rs2 rd : RegIdx) (funct7 : BitVec 7) : Statement (.storeF5Nz rs1 rs2 rd funct7) := fieldsOf_packFields _
theorem storeF6 (rs1 rs2 rd : RegIdx) (funct7 : BitVec 7) : Statement (.storeF6 rs1 rs2 rd funct7) := fieldsOf_packFields _
theorem storeF7 (rs1 rs2 rd : RegIdx) (funct7 : BitVec 7) : Statement (.storeF7 rs1 rs2 rd funct7) := fieldsOf_packFields _
theorem system (rd : RegIdx) (hi : BitVec 20) : Statement (.system rd hi) := fieldsOf_packFields _
theorem miscMem (rd : RegIdx) (hi : BitVec 20) : Statement (.miscMem rd hi) := fieldsOf_packFields _
theorem other (opcode : BitVec 7) (rd : RegIdx) (hi : BitVec 20) : Statement (.other opcode rd hi) := fieldsOf_packFields _

end Sys2Proof.Laws.EncodedFields
end

