-- ==== Sys2Proof/Tests/Slice0.lean ====
section
/-!
SUPPORT. The model's own tests: ill-formed terms that WellFormed refuses, words written out from the
encodings of spec/30_encoding.md and spec/41 to 47, single steps with the outcomes that
spec/95_test_vectors.md gives, and a witness for every statement that has hypotheses.
-/

namespace Sys2Proof.Tests

open Sys2Proof Sys2Proof.Machine

/-! ### WellFormed: one ill-formed term for each check, and its nearest well-formed neighbour -/

theorem test_wf_addi_nz : (Instr.addiNz 1 2 31).wf = false ∧ (Instr.addiNz 1 2 32).wf = true := by decide
theorem test_wf_srai : (Instr.srai 1 2 3 0).wf = false ∧ (Instr.srai 1 2 3 1).wf = true := by decide
theorem test_wf_sub : (Instr.sub 1 2 3 0).wf = false ∧ (Instr.sub 1 2 3 0x7F).wf = true := by decide
theorem test_wf_sra : (Instr.sra 1 2 3 0).wf = false ∧ (Instr.sra 1 2 3 1).wf = true := by decide
theorem test_wf_lb_nz : (Instr.lbNz 1 2 0).wf = false ∧ (Instr.lbNz 1 2 0x800).wf = true := by decide
theorem test_wf_lhu_nz : (Instr.lhuNz 1 2 3 0).wf = false ∧ (Instr.lhuNz 1 2 3 1).wf = true := by decide
theorem test_wf_sb_nz : (Instr.sbNz 1 2 3 0).wf = false ∧ (Instr.sbNz 1 2 3 0x7F).wf = true := by decide
theorem test_wf_store_f5_nz : (Instr.storeF5Nz 1 2 3 0).wf = false ∧ (Instr.storeF5Nz 1 2 3 1).wf = true := by decide
theorem test_wf_other : (namedOpcodes.all fun opcode => !(Instr.other opcode 0 0).wf) = true ∧ (Instr.other 0 0 0).wf = true ∧
    (Instr.other 0x7F 31 0xFFFFF).wf = true := by decide

/-! ### Decoding: each constructor by a word laid out field by field as its rule's pattern gives it

Each word is written funct7, rs2, rs1, funct3, rd, opcode, or as the wider field of its pattern. -/

theorem test_decode_upper_and_jumps :
    decode (0b10101011110011011110#20 ++ 0b00101#5 ++ 0b0110111#7 : Word) = .lui 5 0xABCDE ∧
    decode (0b00000000000000000001#20 ++ 0b00110#5 ++ 0b0010111#7 : Word) = .auipc 6 1 ∧
    decode (0b11111111110111111111#20 ++ 0b00001#5 ++ 0b1101111#7 : Word) = .jal 1 0xFFDFF ∧
    decode (0b000000000111#12 ++ 0b00010#5 ++ 0b000#3 ++ 0b00001#5 ++ 0b1100111#7 : Word) = .jalr 1 2 0 7 := by decide

theorem test_decode_branches :
    decode (0b1000000#7 ++ 0b00010#5 ++ 0b00001#5 ++ 0b000#3 ++ 0b10000#5 ++ 0b1100011#7 : Word) = .beq 1 2 16 0x40 ∧
    decode (0b1000001#7 ++ 0b00010#5 ++ 0b00001#5 ++ 0b001#3 ++ 0b10001#5 ++ 0b1100011#7 : Word) = .bne 1 2 17 0x41 ∧
    decode (0b1000010#7 ++ 0b00010#5 ++ 0b00001#5 ++ 0b010#3 ++ 0b10010#5 ++ 0b1100011#7 : Word) = .branchF2 1 2 18 0x42 ∧
    decode (0b1000011#7 ++ 0b00010#5 ++ 0b00001#5 ++ 0b011#3 ++ 0b10011#5 ++ 0b1100011#7 : Word) = .branchF3 1 2 19 0x43 ∧
    decode (0b1000100#7 ++ 0b00010#5 ++ 0b00001#5 ++ 0b100#3 ++ 0b10100#5 ++ 0b1100011#7 : Word) = .blt 1 2 20 0x44 ∧
    decode (0b1000101#7 ++ 0b00010#5 ++ 0b00001#5 ++ 0b101#3 ++ 0b10101#5 ++ 0b1100011#7 : Word) = .bge 1 2 21 0x45 ∧
    decode (0b1000110#7 ++ 0b00010#5 ++ 0b00001#5 ++ 0b110#3 ++ 0b10110#5 ++ 0b1100011#7 : Word) = .bltu 1 2 22 0x46 ∧
    decode (0b1000111#7 ++ 0b00010#5 ++ 0b00001#5 ++ 0b111#3 ++ 0b10111#5 ++ 0b1100011#7 : Word) = .bgeu 1 2 23 0x47 := by decide

theorem test_decode_alu_immediate :
    decode (0b0000000#7 ++ 0b11111#5 ++ 0b00010#5 ++ 0b000#3 ++ 0b00001#5 ++ 0b0010011#7 : Word) = .addi 1 2 31 ∧
    decode (0b111111111111#12 ++ 0b00010#5 ++ 0b000#3 ++ 0b00001#5 ++ 0b0010011#7 : Word) = .addiNz 1 2 0xFFF ∧
    decode (0b0100000#7 ++ 0b00100#5 ++ 0b00010#5 ++ 0b001#3 ++ 0b00001#5 ++ 0b0010011#7 : Word) = .slli 1 2 4 0x20 ∧
    decode (0b000000000101#12 ++ 0b00010#5 ++ 0b010#3 ++ 0b00001#5 ++ 0b0010011#7 : Word) = .slti 1 2 5 ∧
    decode (0b100000000000#12 ++ 0b00010#5 ++ 0b011#3 ++ 0b00001#5 ++ 0b0010011#7 : Word) = .sltiu 1 2 0x800 ∧
    decode (0b000000001111#12 ++ 0b00010#5 ++ 0b100#3 ++ 0b00001#5 ++ 0b0010011#7 : Word) = .xori 1 2 15 ∧
    decode (0b0000000#7 ++ 0b11111#5 ++ 0b00010#5 ++ 0b101#3 ++ 0b00001#5 ++ 0b0010011#7 : Word) = .srli 1 2 31 ∧
    decode (0b0100000#7 ++ 0b00100#5 ++ 0b00010#5 ++ 0b101#3 ++ 0b00001#5 ++ 0b0010011#7 : Word) = .srai 1 2 4 0x20 ∧
    decode (0b000011110000#12 ++ 0b00010#5 ++ 0b110#3 ++ 0b00001#5 ++ 0b0010011#7 : Word) = .ori 1 2 0xF0 ∧
    decode (0b111100001111#12 ++ 0b00010#5 ++ 0b111#3 ++ 0b00001#5 ++ 0b0010011#7 : Word) = .andi 1 2 0xF0F := by decide

theorem test_decode_alu_register :
    decode (0b0000000#7 ++ 0b00110#5 ++ 0b00101#5 ++ 0b000#3 ++ 0b00111#5 ++ 0b0110011#7 : Word) = .add 7 5 6 ∧
    decode (0b0100000#7 ++ 0b00110#5 ++ 0b00101#5 ++ 0b000#3 ++ 0b00111#5 ++ 0b0110011#7 : Word) = .sub 7 5 6 0x20 ∧
    decode (0b0000000#7 ++ 0b00110#5 ++ 0b00101#5 ++ 0b001#3 ++ 0b00111#5 ++ 0b0110011#7 : Word) = .sll 7 5 6 0 ∧
    decode (0b0000001#7 ++ 0b00110#5 ++ 0b00101#5 ++ 0b010#3 ++ 0b00111#5 ++ 0b0110011#7 : Word) = .slt 7 5 6 1 ∧
    decode (0b0000000#7 ++ 0b00110#5 ++ 0b00101#5 ++ 0b011#3 ++ 0b00111#5 ++ 0b0110011#7 : Word) = .sltu 7 5 6 0 ∧
    decode (0b0000000#7 ++ 0b00110#5 ++ 0b00101#5 ++ 0b100#3 ++ 0b00111#5 ++ 0b0110011#7 : Word) = .xor 7 5 6 0 ∧
    decode (0b0000000#7 ++ 0b00110#5 ++ 0b00101#5 ++ 0b101#3 ++ 0b00111#5 ++ 0b0110011#7 : Word) = .srl 7 5 6 ∧
    decode (0b0100000#7 ++ 0b00110#5 ++ 0b00101#5 ++ 0b101#3 ++ 0b00111#5 ++ 0b0110011#7 : Word) = .sra 7 5 6 0x20 ∧
    decode (0b0000000#7 ++ 0b00110#5 ++ 0b00101#5 ++ 0b110#3 ++ 0b00111#5 ++ 0b0110011#7 : Word) = .or 7 5 6 0 ∧
    decode (0b1111111#7 ++ 0b00110#5 ++ 0b00101#5 ++ 0b111#3 ++ 0b00111#5 ++ 0b0110011#7 : Word) = .and 7 5 6 0x7F := by decide

theorem test_decode_loads :
    decode (0b0000000#7 ++ 0b01000#5 ++ 0b00001#5 ++ 0b000#3 ++ 0b00010#5 ++ 0b0000011#7 : Word) = .lb 2 1 8 ∧
    decode (0b000000100000#12 ++ 0b00001#5 ++ 0b000#3 ++ 0b00010#5 ++ 0b0000011#7 : Word) = .lbNz 2 1 32 ∧
    decode (0b0000001#7 ++ 0b00100#5 ++ 0b00001#5 ++ 0b001#3 ++ 0b00010#5 ++ 0b0000011#7 : Word) = .lh 2 1 4 1 ∧
    decode (0b000000001000#12 ++ 0b00001#5 ++ 0b010#3 ++ 0b00010#5 ++ 0b0000011#7 : Word) = .lw 2 1 8 ∧
    decode (0b000000001000#12 ++ 0b00001#5 ++ 0b011#3 ++ 0b00010#5 ++ 0b0000011#7 : Word) = .loadF3 2 1 8 ∧
    decode (0b111111111111#12 ++ 0b00001#5 ++ 0b100#3 ++ 0b00010#5 ++ 0b0000011#7 : Word) = .lbu 2 1 0xFFF ∧
    decode (0b0000000#7 ++ 0b00010#5 ++ 0b00001#5 ++ 0b101#3 ++ 0b00010#5 ++ 0b0000011#7 : Word) = .lhu 2 1 2 ∧
    decode (0b0000001#7 ++ 0b00010#5 ++ 0b00001#5 ++ 0b101#3 ++ 0b00010#5 ++ 0b0000011#7 : Word) = .lhuNz 2 1 2 1 ∧
    decode (0b000000001000#12 ++ 0b00001#5 ++ 0b110#3 ++ 0b00010#5 ++ 0b0000011#7 : Word) = .loadF6 2 1 8 ∧
    decode (0b000000001100#12 ++ 0b00001#5 ++ 0b111#3 ++ 0b00010#5 ++ 0b0000011#7 : Word) = .loadF7 2 1 12 := by decide

theorem test_decode_stores :
    decode (0b0000000#7 ++ 0b00010#5 ++ 0b00001#5 ++ 0b000#3 ++ 0b01000#5 ++ 0b0100011#7 : Word) = .sb 1 2 8 ∧
    decode (0b1111111#7 ++ 0b00010#5 ++ 0b00001#5 ++ 0b000#3 ++ 0b11100#5 ++ 0b0100011#7 : Word) = .sbNz 1 2 28 0x7F ∧
    decode (0b0000000#7 ++ 0b00010#5 ++ 0b00001#5 ++ 0b001#3 ++ 0b00000#5 ++ 0b0100011#7 : Word) = .sh 1 2 0 0 ∧
    decode (0b0000000#7 ++ 0b00010#5 ++ 0b00001#5 ++ 0b010#3 ++ 0b01000#5 ++ 0b0100011#7 : Word) = .sw 1 2 8 0 ∧
    decode (0b0010001#7 ++ 0b00010#5 ++ 0b00001#5 ++ 0b011#3 ++ 0b00000#5 ++ 0b0100011#7 : Word) = .storeF3 1 2 0 0x11 ∧
    decode (0b0000000#7 ++ 0b00010#5 ++ 0b00001#5 ++ 0b100#3 ++ 0b00100#5 ++ 0b0100011#7 : Word) = .storeF4 1 2 4 0 ∧
    decode (0b0000000#7 ++ 0b00010#5 ++ 0b00110#5 ++ 0b101#3 ++ 0b00000#5 ++ 0b0100011#7 : Word) = .storeF5 6 2 0 ∧
    decode (0b0000001#7 ++ 0b00010#5 ++ 0b00110#5 ++ 0b101#3 ++ 0b00000#5 ++ 0b0100011#7 : Word) = .storeF5Nz 6 2 0 1 ∧
    decode (0b0000000#7 ++ 0b00010#5 ++ 0b00001#5 ++ 0b110#3 ++ 0b00100#5 ++ 0b0100011#7 : Word) = .storeF6 1 2 4 0 ∧
    decode (0b0000000#7 ++ 0b00010#5 ++ 0b00001#5 ++ 0b111#3 ++ 0b00100#5 ++ 0b0100011#7 : Word) = .storeF7 1 2 4 0 := by decide

theorem test_decode_unrecognised :
    decode (0b00110000000000001001#20 ++ 0b00101#5 ++ 0b1110011#7 : Word) = .system 5 0x30009 ∧
    decode (0b00001111111100000000#20 ++ 0b00000#5 ++ 0b0001111#7 : Word) = .miscMem 0 0x0FF00 ∧
    decode (0b11111111111111111111#20 ++ 0b11111#5 ++ 0b0101111#7 : Word) = .other 0x2F 31 0xFFFFF ∧
    decode (0b00000000000000000000#20 ++ 0b00000#5 ++ 0b0000000#7 : Word) = .other 0 0 0 ∧
    decode (0b11111111111111111111#20 ++ 0b11111#5 ++ 0b1111111#7 : Word) = .other 0x7F 31 0xFFFFF := by decide

/-- Rows of the table of spec/95_test_vectors.md section 2.1: one word for each layout at the edge of its range. -/
theorem test_decode_records :
    decodeRecord 0x0080A103#32 = ⟨0x03, 2, 2, 1, 8, 0x00, 0x00000008⟩ ∧
    decodeRecord 0x80000013#32 = ⟨0x13, 0, 0, 0, 0, 0x40, 0xFFFFF800⟩ ∧
    decodeRecord 0x80000F97#32 = ⟨0x17, 31, 0, 0, 0, 0x40, 0x80000000⟩ ∧
    decodeRecord 0xFFDFF0EF#32 = ⟨0x6F, 1, 7, 31, 29, 0x7F, 0x001FFFFC⟩ ∧
    decodeRecord 0x001000EF#32 = ⟨0x6F, 1, 0, 0, 1, 0x00, 0x00000800⟩ ∧
    decodeRecord 0x000FF0EF#32 = ⟨0x6F, 1, 7, 31, 0, 0x00, 0x000FF000⟩ ∧
    decodeRecord 0xFE208EE3#32 = ⟨0x63, 29, 0, 1, 2, 0x7F, 0x00001FFC⟩ ∧
    decodeRecord 0x00000FE3#32 = ⟨0x63, 31, 0, 0, 0, 0x00, 0x0000081E⟩ ∧
    decodeRecord 0x7E000063#32 = ⟨0x63, 0, 0, 0, 0, 0x3F, 0x000007E0⟩ ∧
    decodeRecord 0xFFF100E7#32 = ⟨0x67, 1, 0, 2, 31, 0x7F, 0⟩ ∧
    decodeRecord 0xFE208E23#32 = ⟨0x23, 28, 0, 1, 2, 0x7F, 0⟩ ∧
    decodeRecord 0x406283B3#32 = ⟨0x33, 7, 0, 5, 6, 0x20, 0⟩ ∧
    decodeRecord 0xFFFFFFAF#32 = ⟨0x2F, 31, 7, 31, 31, 0x7F, 0⟩ := by decide

/-- The host's question: 32 bits are an instruction, one bit more is none. -/
theorem test_decodeTableWord :
    decodeTableWord 32 0x00500093 = some (.addi 1 0 5) ∧ decodeTableWord 33 0x00500093 = none := by decide

/-! ### Single steps: spec/95_test_vectors.md, sections 2.2 to 2.8 -/

/-- The state after reset but for these registers, these data cells and this pc. -/
def given (regs : List (RegIdx × Word)) (cells : Memory := []) (pc : Nat := 0) : State :=
  regs.foldl (fun s r => s.setReg r.1 r.2) { State.resetWith cells with pc := pc }

/-- One step on the given word: register `r` and the pc after it. -/
def regAfter (s : State) (w : Nat) (r : RegIdx) : Option (Word × Nat) :=
  match step (s.withFetchWord 32 w) with
  | .next t => some (t.reg r, t.pc)
  | _ => none

/-- One step on the given word: data memory and the pc after it. -/
def cellsAfter (s : State) (w : Nat) : Option (Memory × Nat) :=
  match step (s.withFetchWord 32 w) with
  | .next t => some (t.dmem, t.pc)
  | _ => none

/-- One step on the given word: the run state, data memory and the pc after it. -/
def runAfter (s : State) (w : Nat) : Option (RunState × Memory × Nat) :=
  match step (s.withFetchWord 32 w) with
  | .next t => some (t.runState, t.dmem, t.pc)
  | _ => none

-- 2.2 upper-immediate and jump classes
theorem test_lui_writes_x0 : regAfter (given []) 0xFFFFF037 0 = some (0xFFFFF000, 4) := by decide
theorem test_lui : regAfter (given []) 0xABCDE0B7 1 = some (0xABCDE000, 4) := by decide
theorem test_auipc : regAfter (given [] [] 8) 0x00001097 1 = some (0x00001008, 12) := by decide
theorem test_auipc_wraps : regAfter (given [] [] 4) 0xFFFFF097 1 = some (0xFFFFF004, 8) := by decide
theorem test_jal_backward : regAfter (given [] [] 8) 0xFFDFF0EF 1 = some (0x0000000C, 12) := by decide
theorem test_jal_x0 : regAfter (given [] [] 20) 0x0000006F 0 = some (0x00000018, 24) := by decide
theorem test_jalr : regAfter (given [(2, 0x00001001)]) 0xFFF100E7 1 = some (0x00001000, 4) := by decide
theorem test_jalr_rd_is_rs1 : regAfter (given [(2, 0xFFFFFFFF)]) 0x00010167 2 = some (0xFFFFFFFE, 4) := by decide

-- 2.3 branch class
theorem test_beq_taken : regAfter (given [(1, 7), (2, 7)] [] 8) 0xFE208EE3 29 = some (0x00001FFC, 12) := by decide
theorem test_beq_not_taken : regAfter (given [(1, 3), (2, 9), (16, 0xDEAD)]) 0x00208863 16 = some (0, 4) := by decide
theorem test_bne_taken : regAfter (given [(1, 1), (2, 2)]) 0x00209963 18 = some (0x12, 4) := by decide
theorem test_bne_same_register : regAfter (given [(1, 1), (18, 0xDEAD)]) 0x00109963 18 = some (0, 4) := by decide
theorem test_blt_signed : regAfter (given [(1, 0x80000000), (2, 0x7FFFFFFF)]) 0x0020C863 16 = some (0x10, 4) := by decide
theorem test_blt_not_taken : regAfter (given [(1, 1), (2, 0xFFFFFFFF), (16, 0xDEAD)]) 0x0020C863 16 = some (0, 4) := by decide
theorem test_bge_equal : regAfter (given []) 0x7E005FE3 31 = some (0xFFE, 4) := by decide
theorem test_bge_not_taken : regAfter (given [(1, 0x80000000), (2, 0x7FFFFFFF), (16, 0xDEAD)]) 0x0020D863 16 = some (0, 4) := by decide
theorem test_bltu : regAfter (given [(1, 3), (2, 9), (16, 0xDEAD)]) 0x0020E863 16 = some (0, 4) := by decide
theorem test_bgeu : regAfter (given [(1, 7), (2, 7), (16, 0xDEAD)]) 0x0020F863 16 = some (0, 4) := by decide
theorem test_branchF2 : regAfter (given [(1, 7), (2, 7), (16, 0xDEAD)]) 0x0020A863 16 = some (0, 4) := by decide
theorem test_branchF3 : regAfter (given [(1, 7), (2, 7), (16, 0xDEAD)]) 0x0020B863 16 = some (0, 4) := by decide

-- 2.4 immediate-ALU class
theorem test_addi : regAfter (given []) 0x00500093 1 = some (5, 4) := by decide
theorem test_addi_wraps : regAfter (given [(2, 0x7FFFFFFF)]) 0x01F10093 1 = some (0x8000001E, 4) := by decide
theorem test_addiNz_subtracts : regAfter (given [(2, 0x64)]) 0x02010093 1 = some (0x44, 4) := by decide
theorem test_addiNz_wraps : regAfter (given [(2, 0x7FFFF800)]) 0x80010093 1 = some (0x80000000, 4) := by decide
theorem test_slli : regAfter (given [(2, 3)]) 0x01F11093 1 = some (0x80000000, 4) := by decide
theorem test_slli_any_funct7 : regAfter (given [(2, 0x12345678)]) 0x40411093 1 = some (0x23456780, 4) := by decide
theorem test_slti_less : regAfter (given [(2, 0x80000000)]) 0xFFF12093 1 = some (1, 4) := by decide
theorem test_slti_equal : regAfter (given [(2, 5), (1, 0xDEAD)]) 0x00512093 1 = some (0, 4) := by decide
theorem test_sltiu : regAfter (given [(2, 1), (1, 0xDEAD)]) 0x00513093 1 = some (0, 4) := by decide
theorem test_xori : regAfter (given [(2, 0x0F0F0F0F)]) 0xFFF14093 1 = some (0xF0F0F0F0, 4) := by decide
theorem test_srli : regAfter (given [(2, 0x80000010)]) 0x00415093 1 = some (0x08000001, 4) := by decide
theorem test_srai : regAfter (given [(2, 0x80000000)]) 0x41F15093 1 = some (0xFFFFFFFF, 4) := by decide
theorem test_srai_any_funct7 : regAfter (given [(2, 0x80000010)]) 0x02415093 1 = some (0xF8000001, 4) := by decide
theorem test_ori : regAfter (given [(2, 15)]) 0x80016093 1 = some (0xFFFFF80F, 4) := by decide
theorem test_andi : regAfter (given [(2, 0xABCD)]) 0x0F017093 1 = some (0xC0, 4) := by decide

-- 2.5 register-ALU class: x[6] is never read
theorem test_add : regAfter (given [(5, 0x64), (6, 7)]) 0x006283B3 7 = some (0x64, 4) := by decide
theorem test_sub : regAfter (given [(5, 0x64), (6, 7)]) 0x406283B3 7 = some (0x64, 4) := by decide
theorem test_sub_is_mul_word : regAfter (given [(5, 0x64), (6, 7)]) 0x026283B3 7 = some (0x64, 4) := by decide
theorem test_sll_by_index : regAfter (given [(5, 1), (6, 3)]) 0x006293B3 7 = some (0x40, 4) := by decide
theorem test_slt_negative : regAfter (given [(5, 0xFFFFFFFF), (6, 0xFFFFFFFE)]) 0x0062A3B3 7 = some (1, 4) := by decide
theorem test_slt_not_negative : regAfter (given [(5, 3), (6, 9), (7, 0xDEAD)]) 0x0062A3B3 7 = some (0, 4) := by decide
theorem test_sltu : regAfter (given [(5, 3), (6, 9), (7, 0xDEAD)]) 0x0062B3B3 7 = some (0, 4) := by decide
theorem test_xor : regAfter (given [(5, 0xFF), (6, 0xF)]) 0x0062C3B3 7 = some (0xFF, 4) := by decide
theorem test_srl_by_index : regAfter (given [(5, 0x80000000), (6, 0x1F)]) 0x0062D3B3 7 = some (0x02000000, 4) := by decide
theorem test_sra_by_index : regAfter (given [(5, 0x80000000), (6, 0x1F)]) 0x4062D3B3 7 = some (0xFE000000, 4) := by decide
theorem test_or : regAfter (given [(5, 0xF0), (6, 0xF)]) 0x0062E3B3 7 = some (0xF0, 4) := by decide
theorem test_and : regAfter (given [(5, 0xFF), (6, 0xF), (7, 0xDEAD)]) 0x0062F3B3 7 = some (0, 4) := by decide

-- 2.6 load class, over the data memory that section lists

/-- The data memory of section 2.6. -/
def loadCells : Memory :=
  [(0, 0xD0D0D0D0), (1, 0xD1D1D1D1), (8, 0x88888888), (12, 0x12121212), (20, 0x20202020), (28, 0x28282828),
   (80, 0x80808080), (1023, 0x10231023)]

theorem test_lb_last_cell : regAfter (given [(1, 0x3E0)] loadCells) 0x01F08103 2 = some (0x10231023, 4) := by decide
theorem test_lb_faults : runAfter (given [(1, 0x3E1)] loadCells) 0x01F08103 = some (.faulted 0x400, loadCells, 0) := by decide
theorem test_lbNz : regAfter (given [(1, 0x14)] loadCells) 0xFF808103 2 = some (0x28282828, 4) := by decide
theorem test_lbNz_faults : runAfter (given [(1, 0x14)] loadCells) 0x02008103 = some (.faulted 0xFFFFFFF4, loadCells, 0) := by decide
theorem test_lh : regAfter (given [(1, 0x14)] loadCells) 0x00209103 2 = some (0x80808080, 4) := by decide
theorem test_lh_faults : runAfter (given [(1, 0x14)] loadCells) 0x00609103 = some (.faulted 0x500, loadCells, 0) := by decide
theorem test_lw_less : regAfter (given [(1, 0)] loadCells) 0x0080A103 2 = some (0xD1D1D1D1, 4) := by decide
theorem test_lw_not_less : regAfter (given [(1, 8)] loadCells) 0x0080A103 2 = some (0xD0D0D0D0, 4) := by decide
theorem test_loadF3 : regAfter (given [(1, 0x14)] loadCells) 0x0080B103 2 = some (0xD0D0D0D0, 4) := by decide
theorem test_lbu : regAfter (given [(1, 0xFFFFFFF7)] loadCells) 0xFFF0C103 2 = some (0x88888888, 4) := by decide
theorem test_lhu : regAfter (given [(1, 0x50)] loadCells) 0x0020D103 2 = some (0x20202020, 4) := by decide
theorem test_lhu_faults : runAfter (given [(1, 0xFFFFFFF0)] loadCells) 0x0020D103 = some (.faulted 0x3FFFFFFC, loadCells, 0) := by decide
theorem test_lhuNz : regAfter (given [(1, 0x50)] loadCells) 0x0220D103 2 = some (0x20202020, 4) := by decide
theorem test_lhuNz_faults : runAfter (given [(1, 0xFFFFFFF0)] loadCells) 0x0220D103 = some (.faulted 0xFFFFFFFC, loadCells, 0) := by decide
theorem test_loadF6 : regAfter (given [(1, 4)] loadCells) 0x0080E103 2 = some (0x12121212, 4) := by decide
theorem test_loadF6_faults : runAfter (given [(1, 0x400)] loadCells) 0x0080E103 = some (.faulted 0x408, loadCells, 0) := by decide
theorem test_loadF7 : regAfter (given [(1, 0xFFFFFFFF)] loadCells) 0x00C0F103 2 = some (0x12121212, 4) := by decide
theorem test_loadF7_faults : runAfter (given [(1, 0x400)] loadCells) 0xFFF0F103 = some (.faulted 0x400, loadCells, 0) := by decide

-- 2.7 store class, over the registers that section lists

/-- The registers of section 2.7. -/
def storeStart : State :=
  given [(1, 20), (2, 0xCAFE0002), (3, 0xFFFFFFF0), (4, 0x44), (5, 0x400), (6, 96)]

theorem test_sb : cellsAfter storeStart 0x00208423 = some ([(20, 0xCAFE0002)], 4) := by decide
theorem test_sb_faults_at_1024 : runAfter storeStart 0x00228023 = some (.faulted 0x400, [], 0) := by decide
theorem test_sbNz : cellsAfter storeStart 0xFE208E23 = some ([(20, 0xCAFE0002)], 4) := by decide
theorem test_sh : cellsAfter storeStart 0x00409023 = some ([(320, 0x44)], 4) := by decide
theorem test_sh_faults : runAfter storeStart 0x00609023 = some (.faulted 0x500, [], 0) := by decide
theorem test_sw_cell_0 : cellsAfter storeStart 0x0020A423 = some ([(0, 0xCAFE0002)], 4) := by decide
theorem test_sw_cell_1 : cellsAfter storeStart 0x0021A023 = some ([(1, 0xCAFE0002)], 4) := by decide
theorem test_storeF3 : cellsAfter storeStart 0x0020B023 = some ([(0, 0xCAFE0002)], 4) := by decide
theorem test_storeF4 : cellsAfter storeStart 0x0020C223 = some ([(20, 0xCAFE0002)], 4) := by decide
theorem test_storeF5 : cellsAfter storeStart 0x00235023 = some ([(24, 0xCAFE0002)], 4) := by decide
theorem test_storeF5_faults : runAfter storeStart 0x0021D023 = some (.faulted 0x3FFFFFFC, [], 0) := by decide
theorem test_storeF5Nz : cellsAfter storeStart 0x02235023 = some ([(24, 0xCAFE0002)], 4) := by decide
theorem test_storeF5Nz_faults : runAfter storeStart 0xFE21DE23 = some (.faulted 0xFFFFFFFC, [], 0) := by decide
theorem test_storeF6 : cellsAfter storeStart 0x0020E223 = some ([(20, 0xCAFE0002)], 4) := by decide
theorem test_storeF7 : cellsAfter storeStart 0x0021F023 = some ([(0, 0xCAFE0002)], 4) := by decide

/-- A store of the value an unlisted cell reads as leaves memory in canonical form (row 4 of SH, `sh x0, 0(x1)`). -/
theorem test_store_of_zero : cellsAfter storeStart 0x00009023 = some ([], 4) := by decide

-- 2.8 words of no recognised class

theorem test_system_ecall : regAfter (given [(0, 0x77), (5, 0xDEAD), (10, 0xAAAA), (31, 0xBEEF)]) 0x00000073 0 = some (0, 4) := by decide
theorem test_system_csrrs : regAfter (given [(0, 0x77), (5, 0xDEAD), (10, 0xAAAA), (31, 0xBEEF)]) 0xC0002573 10 = some (0, 4) := by decide
theorem test_miscMem : regAfter (given [(0, 0x77), (5, 0xDEAD), (10, 0xAAAA), (31, 0xBEEF)]) 0x0FF0000F 0 = some (0, 4) := by decide
theorem test_other_ones : regAfter (given [(0, 0x77), (5, 0xDEAD), (10, 0xAAAA), (31, 0xBEEF)]) 0xFFFFFFFF 31 = some (0, 4) := by decide
theorem test_other_amoadd : regAfter (given [(0, 0x77), (5, 0xDEAD), (10, 0xAAAA), (31, 0xBEEF)]) 0x0020A2AF 5 = some (0, 4) := by decide

/-! ### Step driver, halt, fault, reload: spec/95_test_vectors.md section 2.9 -/

/-- H1: the reset state, no image. -/
theorem test_h1_empty_image :
    hostStep State.reset = { core := State.reset.halt, reply := .halted, notes := [.completion] } := by decide

/-- H3: a step in Halted. -/
theorem test_h3_step_in_halted :
    hostStep State.reset.halt = { core := State.reset.halt, reply := .halted, notes := [] } := by decide

/-- The start of H4. -/
def faultStart : State := (given [(1, 0x400)]).withFetchWord 32 0x00008103

/-- H4: the fault. -/
theorem test_h4_fault :
    hostStep faultStart =
      { core := { faultStart with runState := .faulted 0x400 }, reply := .faulted (.memIndexOutOfRange 0x400), notes := [] } := by
  decide

/-- H5: a step in Faulted reports the fault again. -/
theorem test_h5_step_in_faulted :
    hostStep (hostStep faultStart).core =
      { core := { faultStart with runState := .faulted 0x400 }, reply := .faulted (.memIndexOutOfRange 0x400), notes := [] } := by
  decide

/-- H6: a replaced image runs from the unchanged pc, the registers kept. -/
theorem test_h6_reload :
    (match loadProgram [0x00000013, 0x00700193, 0x00900213] (given [(1, 5)] [] 4) with
      | .next t => ((hostStep t).core.reg 3, (hostStep t).core.reg 1, (hostStep t).core.pc)
      | _ => (0, 0, 0)) = (7#32, 5#32, 8) := by decide

/-- H7: rates that start nothing. -/
theorem test_h7_invalid_rates :
    (Rate.finite 0).valid = false ∧ (Rate.finite (-1)).valid = false ∧ Rate.notANumber.valid = false ∧
      (Rate.infinite false).valid = false := by decide

/-- H8: a valid rate starts the worker. -/
theorem test_h8_valid_rate : (System.create.move (.run (.finite 10))).system.worker = true := by decide

/-- H9: the published record of `addi x1, x0, 5`. -/
theorem test_h9_record :
    (hostStep (State.reset.withFetchWord 32 0x00500093)).notes =
      [.perStep
        { regs := (Vector.replicate 32 0#32).set 1 5#32
          dec := ⟨0x13, 1, 0, 0, 5, 0x00, 5⟩, pc := 0, word := 0x00500093, lastWritten := some 1 }] := by decide

/-- H10: the published record of `sb x2, 0(x1)`. -/
theorem test_h10_store_record :
    ((hostStep ((given [(1, 20), (2, 0xCAFE0002)]).withFetchWord 32 0x00208023)).core.snapshot.map
        fun p => (p.dec, p.lastWritten)) = some (⟨0x23, 0, 0, 1, 2, 0x00, 0⟩, none) := by decide

/-- The elements of an image stand for their 32-bit patterns (R200, D18). -/
theorem test_loadProgram_wraps :
    (match loadProgram [-1, 0x1FFFFFFFF] State.reset with
      | .next t => t.imem
      | _ => []) = [0xFFFFFFFF#32, 0xFFFFFFFF#32] := by decide

/-! ### Witnesses: for each statement with hypotheses, a state and operands that meet them

Where a statement has several clauses, each clause has its witness, at the edge of its range. -/

/-- A state about to run the given word. -/
def about (w : Nat) (regs : List (RegIdx × Word)) (cells : Memory := []) : State :=
  (given regs cells).withFetchWord 32 w

theorem test_witness_DecodeOfEncodeIsTheInstruction :
    (Instr.addiNz 31 31 0x800).wf = true ∧ (Instr.srai 0 0 31 0x7F).wf = true ∧ (Instr.sub 0 0 0 1).wf = true ∧
      (Instr.sra 31 31 31 0x7F).wf = true ∧ (Instr.lbNz 0 0 32).wf = true ∧ (Instr.lhuNz 0 0 0 1).wf = true ∧
      (Instr.sbNz 0 0 0 0x7F).wf = true ∧ (Instr.storeF5Nz 0 0 0 1).wf = true ∧ (Instr.other 0x7F 31 0xFFFFF).wf = true ∧
      (Instr.lui 31 0xFFFFF).wf = true := by decide

theorem test_witness_UpperImmediateLayout :
    (0xFFFFF037#32 : Word).extractLsb' 0 7 = Config.opcLui ∧ (0x80000F97#32 : Word).extractLsb' 0 7 = Config.opcAuipc := by
  decide

theorem test_witness_JumpImmediateLayout :
    (0x8000006F#32 : Word).extractLsb' 0 7 = Config.opcJal ∧ (0x8000006F#32 : Word).getLsbD 31 = true := by decide

theorem test_witness_BranchImmediateLayout :
    (0xFFFFFFE3#32 : Word).extractLsb' 0 7 = Config.opcBranch ∧ (0xFFFFFFE3#32 : Word).getLsbD 31 = true := by decide

theorem test_witness_LoadAndAluImmediateLayout :
    (0x0080A103#32 : Word).extractLsb' 0 7 = Config.opcLoad ∧ (0x01F00013#32 : Word).extractLsb' 0 7 = Config.opcOpImm ∧
      (decodeRecord 0x01F00013#32).funct7 = 0#7 ∧ (decodeRecord 0x02000013#32).funct7 ≠ 0#7 := by decide

theorem test_witness_EveryOtherOpcodeHasImmediateZero :
    ([0xFFF100E7#32, 0xFE208E23#32, 0x406283B3#32, 0x30200073#32, 0xFFFFFFFF#32, 0#32] : List Word).all (fun w =>
      decide (w.extractLsb' 0 7 ∉ [Config.opcLui, Config.opcAuipc, Config.opcJal, Config.opcBranch, Config.opcLoad,
        Config.opcOpImm])) = true := by decide

theorem test_witness_StepRunsTheFetchedInstruction :
    (about 0x00500093 []).executing 0x00500093#32 ∧ decode 0x00500093#32 = .addi 1 0 5 := ⟨⟨by decide, by decide⟩, by decide⟩

theorem test_witness_HaltCheckAndFetch :
    (State.reset.halt.runState ≠ .running ∧ (takeFault 0x400 State.reset).runState ≠ .running) ∧
      (State.reset.runState = .running ∧ State.reset.fetch = none) ∧
      ({ State.reset with imem := [0, 0], pc := 8 } : State).pc = 4 * 2 ∧ State.reset.imem = [] ∧
      (about 0x00500093 []).runState = .running ∧ (about 0x00500093 []).fetch = some 0x00500093#32 := by decide

/-- A step that ends, from a state with the invariant and a published record. -/
theorem test_witness_StepKeepsTheInvariant :
    (given [] [(1023, 1)]).Inv ∧ ∃ t, step (given [] [(1023, 1)]) = .next t :=
  ⟨⟨by decide, by decide, by decide, fun _ h => (by cases h), fun _ h => (by cases h)⟩, _, rfl⟩

theorem test_witness_ResetHasTheInvariant : Memory.wf [(0, 1), (1023, 0xFFFFFFFF)] = true := by decide

theorem test_witness_HostMovesKeepTheInvariant : System.create.core.Inv :=
  ⟨by decide, by decide, by decide, fun _ h => (by cases h), fun _ h => (by cases h)⟩

/-- The first clause at pc = 4N - 4, the second at the halting step. -/
theorem test_witness_PcStaysInTheImage :
    ((about 0x00500093 []).pcInImage ∧ ∃ t, step (about 0x00500093 []) = .next t) ∧
      State.reset.pcInImage ∧ State.reset.runState = .running ∧
        step State.reset = .next State.reset.halt ∧ State.reset.halt.completed :=
  ⟨⟨⟨by decide, by decide⟩, _, rfl⟩, ⟨by decide, by decide⟩, rfl, step_of_unmapped rfl rfl, rfl⟩

/-- An executed step; a terminal state, an unmapped pc and the faulting step. -/
theorem test_witness_PcChangesOnlyByFour :
    ((about 0x00500093 []).fetch = some 0x00500093#32 ∧
        ∃ t, step (about 0x00500093 []) = .next t ∧ t.runState = .running) ∧
      step State.reset.halt = .next State.reset.halt ∧ step State.reset = .next State.reset.halt ∧
      step faultStart = .next (takeFault 0x400 faultStart) :=
  ⟨⟨by decide, _, rfl, by decide⟩, step_of_halted rfl, step_of_unmapped rfl rfl, rfl⟩

theorem test_witness_OnlyStoresChangeDataMemory :
    ∃ t, step (about 0x00208023 [(1, 1023), (2, 7)]) = .next t ∧
      Memory.read t.dmem 1023 ≠ Memory.read (about 0x00208023 [(1, 1023), (2, 7)]).dmem 1023 := ⟨_, rfl, by decide⟩

/-- A non-store, a load and a store step that complete. -/
theorem test_witness_WritebackWritesExactlyRd :
    ((about 0x00000073 []).executing 0x00000073#32 ∧ ∃ t, step (about 0x00000073 []) = .next t ∧ t.runState = .running) ∧
      ((about 0x00008103 [(1, 1023)]).executing 0x00008103#32 ∧
        ∃ t, step (about 0x00008103 [(1, 1023)]) = .next t ∧ t.runState = .running) ∧
      (about 0x00208023 [(1, 1023)]).executing 0x00208023#32 ∧
        ∃ t, step (about 0x00208023 [(1, 1023)]) = .next t ∧ t.runState = .running :=
  ⟨⟨⟨by decide, by decide⟩, _, rfl, by decide⟩, ⟨⟨by decide, by decide⟩, _, rfl, by decide⟩, ⟨by decide, by decide⟩, _, rfl,
    by decide⟩

theorem test_witness_NoStepChangesTheImage : ∃ t, step (about 0x00208023 []) = .next t := ⟨_, rfl⟩

/-- A load at cell 1024 and a store at -1 fault; at cell 1023, and for an instruction that is neither, there is no fault. -/
theorem test_witness_OnlyLoadsAndStoresFault :
    ((about 0x00008103 [(1, 1024)]).executing 0x00008103#32 ∧
        ¬InDataSpace (executeStage (decodeRecord 0x00008103#32) (about 0x00008103 [(1, 1024)]))) ∧
      ((about 0x00208023 [(1, 0xFFFFFFFF)]).executing 0x00208023#32 ∧
        ¬InDataSpace (executeStage (decodeRecord 0x00208023#32) (about 0x00208023 [(1, 0xFFFFFFFF)]))) ∧
      ((about 0x00008103 [(1, 1023)]).executing 0x00008103#32 ∧
        InDataSpace (executeStage (decodeRecord 0x00008103#32) (about 0x00008103 [(1, 1023)]))) ∧
      (about 0x00500093 []).executing 0x00500093#32 ∧ (decodeRecord 0x00500093#32).opcode ≠ Config.opcLoad ∧
        (decodeRecord 0x00500093#32).opcode ≠ Config.opcStore :=
  ⟨⟨⟨by decide, by decide⟩, by decide⟩, ⟨⟨by decide, by decide⟩, by decide⟩, ⟨⟨by decide, by decide⟩, by decide⟩,
    ⟨by decide, by decide⟩, by decide, by decide⟩

theorem test_witness_HaltedAndFaultedAreTerminal :
    ({ core := State.reset.halt, worker := true } : System).core.runState ≠ .running ∧
      ({ core := takeFault 0x400 State.reset, worker := false } : System).core.runState ≠ .running := by decide

/-- At both ends of the image: j = 0 with a word that faults, and j = N. -/
theorem test_witness_EveryRunEndsHaltedOrFaulted :
    (faultStart.runState = .running ∧ faultStart.pc = 4 * 0 ∧ 0 ≤ faultStart.imem.length) ∧
      State.reset.runState = .running ∧ State.reset.pc = 4 * 0 ∧ 0 ≤ State.reset.imem.length := by decide

/-- The JAL clause about a next state. -/
theorem test_witness_JalWritesTheLink : ∃ t, exec (.jal 0 0xFFDFF) State.reset = .next t := ⟨_, rfl⟩

theorem test_witness_JalrReadingsAgreeOnZeroBits : (0#12 : BitVec 12) = 0#12 := rfl

/-- LB and LB.NZ: the last cell, the first address past it, and the address below cell 0. -/
theorem test_witness_LbLoadsSumOrDifference :
    InDataSpace (wrap (((given [(1, 992)]).reg 1).toInt + (31#5).toNat)) ∧
      ¬InDataSpace (wrap (((given [(1, 993)]).reg 1).toInt + (31#5).toNat)) ∧
      InDataSpace (wrap (((given [(1, 32)]).reg 1).toInt - (32#12).toInt)) ∧
      ¬InDataSpace (wrap (((given [(1, 31)]).reg 1).toInt - (32#12).toInt)) := by decide

/-- LH, LHU and LHU.NZ: in range, out of range, and a negative base. -/
theorem test_witness_ShiftLoadsFromTheShiftedBase :
    InDataSpace (BitVec.ofNat 32 (((given [(1, 1)]).reg 1).toNat * 2 ^ (9#5).toNat)) ∧
      ¬InDataSpace (BitVec.ofNat 32 (((given [(1, 1)]).reg 1).toNat * 2 ^ (10#5).toNat)) ∧
      InDataSpace (BitVec.ofNat 32 (((given [(1, 2047)]).reg 1).toNat / 2 ^ (1#5).toNat)) ∧
      ¬InDataSpace (BitVec.ofNat 32 (((given [(1, 2048)]).reg 1).toNat / 2 ^ (1#5).toNat)) ∧
      InDataSpace (wrap (((given [(1, 2047)]).reg 1).toInt / 2 ^ (1#5).toNat)) ∧
      ¬InDataSpace (wrap (((given [(1, 2048)]).reg 1).toInt / 2 ^ (1#5).toNat)) ∧
      ((given [(1, 0xFFFFFFFF)]).reg 1).toInt < 0 := by decide

/-- LBU, LOAD.F6 and LOAD.F7: the last cell, the address past it, and both ends of the immediates that cannot fault. -/
theorem test_witness_LogicLoadsFromTheCombinedAddress :
    InDataSpace ((given [(1, 1022)]).reg 1 ^^^ wrap (1#12).toInt) ∧
      ¬InDataSpace ((given [(1, 1025)]).reg 1 ^^^ wrap (1#12).toInt) ∧
      InDataSpace ((given [(1, 1022)]).reg 1 ||| wrap (1#12).toInt) ∧
      ¬InDataSpace ((given [(1, 1024)]).reg 1 ||| wrap (0#12).toInt) ∧
      InDataSpace ((given [(1, 0xFFFFFFFF)]).reg 1 &&& wrap (1023#12).toInt) ∧
      ¬InDataSpace ((given [(1, 0xFFFFFFFF)]).reg 1 &&& wrap (1024#12).toInt) ∧
      (0 ≤ (1023#12).toInt ∧ (1023#12).toInt ≤ 1023) ∧ 0 ≤ (0#12).toInt := by decide

/-- The four plain stores form the same address: the last cell, the first past it, and -1. -/
theorem test_witness_PlainStoresUseRs1AsTheCell :
    InDataSpace ((given [(1, 1023)]).reg 1) ∧ ¬InDataSpace ((given [(1, 1024)]).reg 1) ∧
      ¬InDataSpace ((given [(1, 0xFFFFFFFF)]).reg 1) := by decide

/-- SH, STORE.F5 and STORE.F5.NZ, the shift amount being the data register's number. -/
theorem test_witness_ShiftStoresUseTheShiftedBase :
    InDataSpace (BitVec.ofNat 32 (((given [(1, 1)]).reg 1).toNat * 2 ^ (9#5).toNat)) ∧
      ¬InDataSpace (BitVec.ofNat 32 (((given [(1, 1)]).reg 1).toNat * 2 ^ (10#5).toNat)) ∧
      InDataSpace (BitVec.ofNat 32 (((given [(1, 4095)]).reg 1).toNat / 2 ^ (2#5).toNat)) ∧
      ¬InDataSpace (BitVec.ofNat 32 (((given [(1, 4096)]).reg 1).toNat / 2 ^ (2#5).toNat)) ∧
      InDataSpace (wrap (((given [(1, 4095)]).reg 1).toInt / 2 ^ (2#5).toNat)) ∧
      ¬InDataSpace (wrap (((given [(1, 4096)]).reg 1).toInt / 2 ^ (2#5).toNat)) ∧
      ((given [(1, 0x80000000)]).reg 1).toInt < 0 := by decide

/-- The image of M1 and M2 of section 2.7, before M1. -/
def storeLoadStart : State := { given [(1, 20), (2, 0xCAFE0002)] with imem := [0x00208423, 0x00008383] }

theorem test_witness_StoreThenLoadReturnsTheStoredValue :
    storeLoadStart.executing 0x00208423#32 ∧ (decodeRecord 0x00208423#32).opcode = Config.opcStore ∧
      ∃ t, step storeLoadStart = .next t ∧ t.executing 0x00008383#32 ∧ (decodeRecord 0x00008383#32).opcode = Config.opcLoad ∧
        executeStage (decodeRecord 0x00008383#32) t = executeStage (decodeRecord 0x00208423#32) storeLoadStart :=
  ⟨⟨by decide, by decide⟩, by decide, _, rfl, ⟨by decide, by decide⟩, by decide, by decide⟩

/-- A step that executes and one that faults. -/
theorem test_witness_ExecutedStepPublishesItsRecord :
    (storeLoadStart.executing 0x00208423#32 ∧ (hostStep storeLoadStart).reply = .executed) ∧
      faultStart.executing 0x00008103#32 ∧ (hostStep faultStart).reply ≠ .executed :=
  ⟨⟨⟨by decide, by decide⟩, by decide⟩, ⟨by decide, by decide⟩, by decide⟩

theorem test_witness_CompletionIsEmittedOnlyByTheTransition :
    Notification.completion ∈ (hostStep State.reset).notes := by decide

/-- A list at each side of the bound. -/
theorem test_witness_LoadProgramInstallsTheImage :
    (List.replicate (2 ^ 29 - 1) (0 : Int)).length ≤ 2 ^ 29 - 1 ∧
      2 ^ 29 - 1 < (List.replicate (2 ^ 29) (0 : Int)).length := by
  simp only [List.length_replicate]; omega

/-- A Running core whose pc is the end of the new image, and a Halted one. -/
theorem test_witness_ReplacedImageRunsFromTheSamePc :
    (∃ t, loadProgram [0] (given [] [] 4) = .next t ∧ (given [] [] 4).pc % 4 = 0 ∧
        (given [] [] 4).runState = .running ∧ 4 * [(0 : Int)].length ≤ (given [] [] 4).pc) ∧
      ∃ t, loadProgram [0] State.reset.halt = .next t ∧ State.reset.halt.pc % 4 = 0 ∧ State.reset.halt.runState ≠ .running :=
  ⟨⟨_, rfl, by decide, by decide, by decide⟩, _, rfl, by decide, by decide⟩

/-- No worker and a rate that starts one; a worker that is already active. -/
theorem test_witness_RunStartsAWorkerOnlyOnAValidRate :
    System.create.worker = false ∧ (0 : Rat) < 1 / 1000 ∧
      ({ core := State.reset, worker := true } : System).worker = true := by
  refine ⟨rfl, by norm_num, rfl⟩

theorem test_witness_BothContextsTakeTheSameStep : ({ core := storeLoadStart, worker := true } : System).worker = true := rfl

end Sys2Proof.Tests
end

section
/-!
PROOFS. What the decoder makes of a word (R61, R62 to R68, R71, R76): the six fields survive the selection
of an instruction, and the record's immediate is the immediate of the operand forms.
-/

namespace Sys2Proof

/-! ### Packing the fields of a word (R76) -/

/-- Cutting a word at the six field positions and packing the fields gives the word back (R76). -/
@[simp] theorem packFields_fieldsOf (w : Word) : packFields (fieldsOf w) = w := by
  unfold packFields fieldsOf
  ext k hk
  simp only [BitVec.getElem_append, BitVec.getElem_extractLsb']
  interval_cases k <;> simp

/-- The low five bits of the I immediate's field are rs2 (R67). -/
@[simp] theorem Fields.imm12_low (f : Fields) : f.imm12.extractLsb' 0 5 = f.rs2 := by
  unfold Fields.imm12
  ext k hk
  simp only [BitVec.getElem_extractLsb', BitVec.getLsbD_append]
  interval_cases k <;> simp

/-- The high seven bits of the I immediate's field are funct7 (R67). -/
@[simp] theorem Fields.imm12_high (f : Fields) : immFunct7 f.imm12 = f.funct7 := by
  unfold Fields.imm12 immFunct7
  ext k hk
  simp only [BitVec.getElem_extractLsb', BitVec.getLsbD_append]
  interval_cases k <;> simp

theorem fieldsHi_imm20 (f : Fields) : fieldsHi f.opcode f.rd f.imm20 = f := by
  obtain ⟨opcode, rd, funct3, rs1, rs2, funct7⟩ := f
  simp only [fieldsHi, Fields.imm20, Fields.mk.injEq, true_and]
  refine ⟨?_, ?_, ?_, ?_⟩ <;>
    · ext k hk
      simp only [BitVec.getElem_extractLsb', BitVec.getLsbD_append]
      interval_cases k <;> simp

theorem fieldsHi_of {f : Fields} {o : BitVec 7} (ho : f.opcode = o) : fieldsHi o f.rd f.imm20 = f :=
  ho ▸ fieldsHi_imm20 f

theorem fieldsI_of {f : Fields} {o : BitVec 7} {g : BitVec 3} (ho : f.opcode = o) (hg : f.funct3 = g) :
    fieldsI o g f.rd f.rs1 f.imm12 = f := by
  simp [fieldsI, ← ho, ← hg]

theorem fieldsR_of {f : Fields} {o : BitVec 7} {g : BitVec 3} {z : BitVec 7} (ho : f.opcode = o) (hg : f.funct3 = g)
    (hz : f.funct7 = z) : fieldsR o g f.rd f.rs1 f.rs2 z = f := by
  simp [fieldsR, ← ho, ← hg, ← hz]

/-- The eight values of a funct3 field (R71). -/
theorem funct3_cases (g : BitVec 3) :
    g = 0#3 ∨ g = 1#3 ∨ g = 2#3 ∨ g = 3#3 ∨ g = 4#3 ∨ g = 5#3 ∨ g = 6#3 ∨ g = 7#3 := by
  revert g; decide

/-! ### Selecting an instruction loses no field (R71, R72) -/

theorem instrFields_selectBranch {f : Fields} (h : f.opcode = Config.opcBranch) : instrFields (selectBranch f) = f := by
  rcases funct3_cases f.funct3 with hg | hg | hg | hg | hg | hg | hg | hg <;>
    simp [selectBranch, instrFields, h, hg, fieldsR_of]

theorem instrFields_selectOpImm {f : Fields} (h : f.opcode = Config.opcOpImm) : instrFields (selectOpImm f) = f := by
  by_cases hz : f.funct7 = 0#7 <;>
    rcases funct3_cases f.funct3 with hg | hg | hg | hg | hg | hg | hg | hg <;>
      simp [selectOpImm, instrFields, h, hg, hz, fieldsR_of, fieldsI_of]

theorem instrFields_selectOp {f : Fields} (h : f.opcode = Config.opcOp) : instrFields (selectOp f) = f := by
  by_cases hz : f.funct7 = 0#7 <;>
    rcases funct3_cases f.funct3 with hg | hg | hg | hg | hg | hg | hg | hg <;>
      simp [selectOp, instrFields, h, hg, hz, fieldsR_of]

theorem instrFields_selectLoad {f : Fields} (h : f.opcode = Config.opcLoad) : instrFields (selectLoad f) = f := by
  by_cases hz : f.funct7 = 0#7 <;>
    rcases funct3_cases f.funct3 with hg | hg | hg | hg | hg | hg | hg | hg <;>
      simp [selectLoad, instrFields, h, hg, hz, fieldsR_of, fieldsI_of]

theorem instrFields_selectStore {f : Fields} (h : f.opcode = Config.opcStore) : instrFields (selectStore f) = f := by
  by_cases hz : f.funct7 = 0#7 <;>
    rcases funct3_cases f.funct3 with hg | hg | hg | hg | hg | hg | hg | hg <;>
      simp [selectStore, instrFields, h, hg, hz, fieldsR_of]

/-- The twelve classes of an instruction that six fields can stand for (R71, R192). -/
theorem selectInstr_cases {P : Instr → Prop} (f : Fields)
    (lui : f.opcode = Config.opcLui → P (.lui f.rd f.imm20))
    (auipc : f.opcode = Config.opcAuipc → P (.auipc f.rd f.imm20))
    (jal : f.opcode = Config.opcJal → P (.jal f.rd f.imm20))
    (jalr : f.opcode = Config.opcJalr → P (.jalr f.rd f.rs1 f.funct3 f.imm12))
    (branch : f.opcode = Config.opcBranch → P (selectBranch f))
    (opImm : f.opcode = Config.opcOpImm → P (selectOpImm f))
    (op : f.opcode = Config.opcOp → P (selectOp f))
    (load : f.opcode = Config.opcLoad → P (selectLoad f))
    (store : f.opcode = Config.opcStore → P (selectStore f))
    (system : f.opcode = Config.opcSystem → P (.system f.rd f.imm20))
    (miscMem : f.opcode = Config.opcMiscMem → P (.miscMem f.rd f.imm20))
    (other : f.opcode ∉ namedOpcodes → P (.other f.opcode f.rd f.imm20)) : P (selectInstr f) := by
  unfold selectInstr
  refine iteInduction lui fun h1 => iteInduction auipc fun h2 => iteInduction jal fun h3 => iteInduction jalr fun h4 =>
    iteInduction branch fun h5 => iteInduction opImm fun h6 => iteInduction op fun h7 => iteInduction load fun h8 =>
    iteInduction store fun h9 => iteInduction system fun h10 => iteInduction miscMem fun h11 => other ?_
  simp [namedOpcodes, h1, h2, h3, h4, h5, h6, h7, h8, h9, h10, h11]

/-- The fields of the instruction that six fields stand for are those fields (R71, R76). -/
@[simp] theorem instrFields_selectInstr (f : Fields) : instrFields (selectInstr f) = f := by
  apply selectInstr_cases (P := fun i => instrFields i = f) f
  case lui => exact fieldsHi_of
  case auipc => exact fieldsHi_of
  case jal => exact fieldsHi_of
  case jalr => exact fun h => fieldsI_of h rfl
  case branch => exact instrFields_selectBranch
  case opImm => exact instrFields_selectOpImm
  case op => exact instrFields_selectOp
  case load => exact instrFields_selectLoad
  case store => exact instrFields_selectStore
  case system => exact fieldsHi_of
  case miscMem => exact fieldsHi_of
  case other => exact fun _ => fieldsHi_imm20 f

/-- Encoding the instruction a word decodes to gives the word back, for every word (R76). -/
@[simp] theorem encode_decode (w : Word) : encode (decode w) = w := by
  simp [encode, decode]

/-! ### The immediate of a record, class by class (R64, R66 to R68) -/

/-- The U immediate of a word as the operand form writes it (R64). -/
theorem immU_fieldsOf (w : Word) : w &&& 0xFFFFF000#32 = immU (fieldsOf w).imm20 := by
  apply BitVec.eq_of_getLsbD_eq
  intro k hk
  have hU : (immU (fieldsOf w).imm20).getLsbD k = if k < 12 then false else (fieldsOf w).imm20.getLsbD (k - 12) :=
    BitVec.getLsbD_append.trans (by simp)
  rw [hU, BitVec.getLsbD_and]
  unfold Fields.imm20 fieldsOf
  simp only [BitVec.getLsbD_append]
  interval_cases k <;> simp

/-- The B immediate of a word as the operand form writes it (R66). -/
theorem immB_fieldsOf (w : Word) :
    (bitsAt w 8 4 <<< 1) ||| (bitsAt w 25 6 <<< 5) ||| (bitAt w 7 <<< 11) ||| (bitAt w 31 <<< 12) =
      immB (fieldsOf w).funct7 (fieldsOf w).rd := by
  unfold immB fieldsOf bitsAt bitAt
  ext k hk
  simp only [BitVec.getElem_or, BitVec.getElem_shiftLeft, BitVec.getElem_setWidth, BitVec.getLsbD_append,
    BitVec.getLsbD_extractLsb']
  interval_cases k <;> simp

/-- w[31:20] from the fields (R67). -/
theorem imm12_fieldsOf (w : Word) : (fieldsOf w).imm12 = w.extractLsb' 20 12 := by
  unfold Fields.imm12 fieldsOf
  ext k hk
  simp only [BitVec.getElem_append, BitVec.getElem_extractLsb']
  interval_cases k <;> simp

/-- With funct7 zero the I immediate is the rs2 field (R67, R130). -/
theorem immI_imm12_of_zero {f : Fields} (hz : f.funct7 = 0#7) : immI f.imm12 = immI5 f.rs2 := by
  have hmsb : f.imm12.msb = false := by
    rw [Fields.imm12, hz]
    exact BitVec.msb_append.trans (by simp)
  unfold immI immI5
  rw [BitVec.signExtend_eq_setWidth_of_msb_false hmsb]
  unfold Fields.imm12
  rw [hz]
  ext k hk
  simp only [BitVec.getElem_setWidth, BitVec.getLsbD_append]
  interval_cases k <;> simp

end Sys2Proof
end

section
/-!
PROOFS. The instruction that a fetched word decodes to ends as R98 and R99 say, with the result that the
Execution Unit's dispatch gives (R93 to R96): a load reads the cell it names, a store writes it, every
other class writes the result to x[rd].
-/

namespace Sys2Proof.Machine

/-! ### The operations of the step as the integer laws of R93 and R95 -/

theorem aluAdd_eq (a i : Word) : aluAdd a i = wrap (a.toInt + i.toInt) := by
  simp [aluAdd, BitVec.ofInt_add]

theorem aluSub_eq (a i : Word) : aluSub a i = wrap (a.toInt - i.toInt) := by
  simp [aluSub, Int.sub_eq_add_neg, BitVec.ofInt_add, BitVec.ofInt_neg, BitVec.sub_eq_add_neg]

theorem aluShl_eq (a : Word) (n : RegIdx) : aluShl a n = BitVec.ofNat 32 (a.toNat * 2 ^ n.toNat) := by
  apply BitVec.eq_of_toNat_eq
  simp [aluShl, BitVec.toNat_shiftLeft, Nat.shiftLeft_eq]

theorem aluShr_eq (a : Word) (n : RegIdx) : aluShr a n = BitVec.ofNat 32 (a.toNat / 2 ^ n.toNat) := by
  have hlt : a.toNat / 2 ^ n.toNat < 2 ^ 32 := lt_of_le_of_lt (Nat.div_le_self _ _) a.isLt
  apply BitVec.eq_of_toNat_eq
  rw [BitVec.toNat_ofNat, Nat.mod_eq_of_lt hlt]
  simp [aluShr, Nat.shiftRight_eq_div_pow]

theorem aluSar_eq (a : Word) (n : RegIdx) : aluSar a n = wrap (a.toInt / 2 ^ n.toNat) := by
  simp [aluSar, BitVec.sshiftRight, Int.shiftRight_eq_div_pow]

theorem aluSlt_eq (a i : Word) : aluSlt a i = if a.toInt < i.toInt then 1#32 else 0#32 := by
  simp [aluSlt, condLt]

theorem pcPlus_eq (pc : Nat) (imm : Word) : pcPlus pc imm = wrap (pc + imm.toInt) := by
  simp [pcPlus, pcWord, BitVec.ofInt_add]

theorem linkValue_eq (pc : Nat) : linkValue pc = wrap (pc + 4) := by
  simp [linkValue, pcWord, BitVec.ofInt_add]

theorem jalrValue_eq (a imm : Word) : jalrValue a imm = wrap (a.toInt + imm.toInt) &&& 0xFFFFFFFE#32 := by
  simp [jalrValue, BitVec.ofInt_add]

/-- The ALU routine through the operand forms of the meanings, slot by slot (R96). -/
theorem aluStage_eq (d : Decoded) (s : State) :
    aluStage d s =
      if d.funct3 = 0#3 then
        if d.funct7 = 0#7 then aluAdd (s.reg d.rs1) d.imm else aluSub (s.reg d.rs1) d.imm
      else if d.funct3 = 1#3 then aluShl (s.reg d.rs1) d.rs2
      else if d.funct3 = 2#3 then aluSlt (s.reg d.rs1) d.imm
      else if d.funct3 = 4#3 then aluXor (s.reg d.rs1) d.imm
      else if d.funct3 = 5#3 then
        if d.funct7 = 0#7 then aluShr (s.reg d.rs1) d.rs2 else aluSar (s.reg d.rs1) d.rs2
      else if d.funct3 = 6#3 then aluOr (s.reg d.rs1) d.imm
      else if d.funct3 = 7#3 then aluAnd (s.reg d.rs1) d.imm
      else aluZero := by
  simp only [aluAdd_eq, aluSub_eq, aluShl_eq, aluShr_eq, aluSar_eq, aluSlt_eq]
  rfl

/-! ### The record of a word, class by class -/

@[simp] theorem decodeRecord_opcode (w : Word) : (decodeRecord w).opcode = (fieldsOf w).opcode := rfl
@[simp] theorem decodeRecord_rd (w : Word) : (decodeRecord w).rd = (fieldsOf w).rd := rfl
@[simp] theorem decodeRecord_funct3 (w : Word) : (decodeRecord w).funct3 = (fieldsOf w).funct3 := rfl
@[simp] theorem decodeRecord_rs1 (w : Word) : (decodeRecord w).rs1 = (fieldsOf w).rs1 := rfl
@[simp] theorem decodeRecord_rs2 (w : Word) : (decodeRecord w).rs2 = (fieldsOf w).rs2 := rfl
@[simp] theorem decodeRecord_funct7 (w : Word) : (decodeRecord w).funct7 = (fieldsOf w).funct7 := rfl

theorem decodeRecord_imm_of_upper {w : Word}
    (h : (fieldsOf w).opcode = Config.opcLui ∨ (fieldsOf w).opcode = Config.opcAuipc) :
    (decodeRecord w).imm = immU (fieldsOf w).imm20 :=
  (if_pos h).trans (immU_fieldsOf w)

theorem decodeRecord_imm_of_jalr {w : Word} (h : (fieldsOf w).opcode = Config.opcJalr) :
    (decodeRecord w).imm = immJalr (fieldsOf w).imm12 := by
  have h' : w.extractLsb' 0 7 = Config.opcJalr := h
  simp +decide [decodeRecord, immOf, h', imm12_fieldsOf]

theorem decodeRecord_imm_of_branch {w : Word} (h : (fieldsOf w).opcode = Config.opcBranch) :
    (decodeRecord w).imm = immB (fieldsOf w).funct7 (fieldsOf w).rd := by
  have h' : w.extractLsb' 0 7 = Config.opcBranch := h
  simp +decide only [decodeRecord, immOf, h', ← immB_fieldsOf, if_true, if_false]

theorem decodeRecord_imm_of_iFormat {w : Word}
    (h : (fieldsOf w).opcode = Config.opcLoad ∨ (fieldsOf w).opcode = Config.opcOpImm) :
    (decodeRecord w).imm = immI (fieldsOf w).imm12 := by
  rw [imm12_fieldsOf]
  have h' : w.extractLsb' 0 7 = Config.opcLoad ∨ w.extractLsb' 0 7 = Config.opcOpImm := h
  rcases h' with h' | h' <;> simp +decide [decodeRecord, immOf, immI, h']

theorem decodeRecord_imm_of_store {w : Word} (h : (fieldsOf w).opcode = Config.opcStore) (funct7 : BitVec 7)
    (rd : RegIdx) : (decodeRecord w).imm = immStore funct7 rd := by
  have h' : w.extractLsb' 0 7 = Config.opcStore := h
  simp +decide [decodeRecord, immOf, h', immStore, immStoreUnder, Config.storeImmLayout]

theorem decodeRecord_imm_of_op {w : Word} (h : (fieldsOf w).opcode = Config.opcOp) : (decodeRecord w).imm = immZ := by
  have h' : w.extractLsb' 0 7 = Config.opcOp := h
  simp +decide [decodeRecord, immOf, h', immZ]

/-! ### The dispatch of the Execution Unit, class by class (R93) -/

theorem executeStage_of_lui {d : Decoded} (h : d.opcode = Config.opcLui) (s : State) : executeStage d s = d.imm := by
  simp [executeStage, h]

theorem executeStage_of_auipc {d : Decoded} (h : d.opcode = Config.opcAuipc) (s : State) :
    executeStage d s = pcPlus s.pc d.imm := by
  simp +decide [executeStage, h, pcPlus_eq]

theorem executeStage_of_jal {d : Decoded} (h : d.opcode = Config.opcJal) (s : State) :
    executeStage d s = linkValue s.pc := by
  simp +decide [executeStage, h, linkValue_eq]

theorem executeStage_of_jalr {d : Decoded} (h : d.opcode = Config.opcJalr) (s : State) :
    executeStage d s = jalrValue (s.reg d.rs1) d.imm := by
  simp +decide [executeStage, h, jalrValue_eq]

theorem executeStage_of_branch {d : Decoded} (h : d.opcode = Config.opcBranch) (s : State) :
    executeStage d s = branchStage d s := by
  simp +decide [executeStage, h]

theorem executeStage_of_alu {d : Decoded} (s : State)
    (h : d.opcode = Config.opcLoad ∨ d.opcode = Config.opcStore ∨ d.opcode = Config.opcOpImm ∨ d.opcode = Config.opcOp) :
    executeStage d s = aluStage d s := by
  rcases h with h | h | h | h <;> simp +decide [executeStage, h]

/-- A word of no recognised class has the result 0 (R93, R190 to R192). -/
theorem executeStage_of_unrecognised {d : Decoded} (s : State)
    (h : d.opcode = Config.opcSystem ∨ d.opcode = Config.opcMiscMem ∨ d.opcode ∉ namedOpcodes) :
    executeStage d s = 0#32 := by
  rcases h with h | h | h
  · simp +decide [executeStage, h]
  · simp +decide [executeStage, h]
  · simp only [namedOpcodes, List.mem_cons, not_or] at h
    simp [executeStage, h]

/-! ### The meaning of the instruction a word decodes to -/

theorem exec_selectBranch {w : Word} (h : (fieldsOf w).opcode = Config.opcBranch) (s : State) :
    exec (selectBranch (fieldsOf w)) s =
      writeResult (selectBranch (fieldsOf w)) (decodeRecord w).rd (executeStage (decodeRecord w) s) s := by
  rw [executeStage_of_branch h]
  rcases funct3_cases (fieldsOf w).funct3 with hg | hg | hg | hg | hg | hg | hg | hg <;>
    simp [selectBranch, branchStage, decodeRecord_imm_of_branch h, hg, exec, execBeq, execBne, execBlt, execBge,
      execBltu, execBgeu, execBranchF2, execBranchF3, branchResult, condEq, condNe, condLt, condGe]

theorem exec_selectOpImm {w : Word} (h : (fieldsOf w).opcode = Config.opcOpImm) (s : State) :
    exec (selectOpImm (fieldsOf w)) s =
      writeResult (selectOpImm (fieldsOf w)) (decodeRecord w).rd (executeStage (decodeRecord w) s) s := by
  rw [executeStage_of_alu s (.inr (.inr (.inl h))), aluStage_eq, decodeRecord_imm_of_iFormat (.inr h)]
  by_cases hz : (fieldsOf w).funct7 = 0#7 <;>
    rcases funct3_cases (fieldsOf w).funct3 with hg | hg | hg | hg | hg | hg | hg | hg <;>
      simp [selectOpImm, hg, hz, immI_imm12_of_zero, exec, execAddi, execAddiNz, execSlli, execSlti, execSltiu, execXori,
        execSrli, execSrai, execOri, execAndi]

theorem exec_selectOp {w : Word} (h : (fieldsOf w).opcode = Config.opcOp) (s : State) :
    exec (selectOp (fieldsOf w)) s =
      writeResult (selectOp (fieldsOf w)) (decodeRecord w).rd (executeStage (decodeRecord w) s) s := by
  rw [executeStage_of_alu s (.inr (.inr (.inr h))), aluStage_eq, decodeRecord_imm_of_op h]
  by_cases hz : (fieldsOf w).funct7 = 0#7 <;>
    rcases funct3_cases (fieldsOf w).funct3 with hg | hg | hg | hg | hg | hg | hg | hg <;>
      simp [selectOp, hg, hz, exec, execAdd, execSub, execSll, execSlt, execSltu, execXor, execSrl, execSra, execOr,
        execAnd]

theorem exec_selectLoad {w : Word} (h : (fieldsOf w).opcode = Config.opcLoad) (s : State) :
    exec (selectLoad (fieldsOf w)) s =
      loadCell (selectLoad (fieldsOf w)) (decodeRecord w).rd (executeStage (decodeRecord w) s) s := by
  rw [executeStage_of_alu s (.inl h), aluStage_eq, decodeRecord_imm_of_iFormat (.inl h)]
  by_cases hz : (fieldsOf w).funct7 = 0#7 <;>
    rcases funct3_cases (fieldsOf w).funct3 with hg | hg | hg | hg | hg | hg | hg | hg <;>
      simp [selectLoad, hg, hz, immI_imm12_of_zero, exec, execLb, execLbNz, execLh, execLw, execLoadF3, execLbu, execLhu,
        execLhuNz, execLoadF6, execLoadF7]

theorem exec_selectStore {w : Word} (h : (fieldsOf w).opcode = Config.opcStore) (s : State) :
    exec (selectStore (fieldsOf w)) s =
      storeCell (selectStore (fieldsOf w)) (decodeRecord w).rs2 (executeStage (decodeRecord w) s) s := by
  rw [executeStage_of_alu s (.inr (.inl h)), aluStage_eq,
    decodeRecord_imm_of_store h (fieldsOf w).funct7 (fieldsOf w).rd]
  by_cases hz : (fieldsOf w).funct7 = 0#7 <;>
    rcases funct3_cases (fieldsOf w).funct3 with hg | hg | hg | hg | hg | hg | hg | hg <;>
      simp [selectStore, hg, hz, exec, execSb, execSbNz, execSh, execSw, execStoreF3, execStoreF4, execStoreF5,
        execStoreF5Nz, execStoreF6, execStoreF7]

/-- A load word reads the cell that its result names (R98). -/
theorem exec_decode_of_load {w : Word} (h : (decodeRecord w).opcode = Config.opcLoad) (s : State) :
    exec (decode w) s = loadCell (decode w) (decodeRecord w).rd (executeStage (decodeRecord w) s) s := by
  have hd : decode w = selectLoad (fieldsOf w) := by
    rw [decodeRecord_opcode] at h
    simp +decide [decode, selectInstr, h]
  rw [hd]
  exact exec_selectLoad h s

/-- A store word writes x[rs2] to the cell that its result names (R98, R99). -/
theorem exec_decode_of_store {w : Word} (h : (decodeRecord w).opcode = Config.opcStore) (s : State) :
    exec (decode w) s = storeCell (decode w) (decodeRecord w).rs2 (executeStage (decodeRecord w) s) s := by
  have hd : decode w = selectStore (fieldsOf w) := by
    rw [decodeRecord_opcode] at h
    simp +decide [decode, selectInstr, h]
  rw [hd]
  exact exec_selectStore h s

/-- A word that is neither writes its result to x[rd] (R99). -/
theorem exec_decode_of_neither {w : Word} (hl : (decodeRecord w).opcode ≠ Config.opcLoad)
    (hs : (decodeRecord w).opcode ≠ Config.opcStore) (s : State) :
    exec (decode w) s = writeResult (decode w) (decodeRecord w).rd (executeStage (decodeRecord w) s) s := by
  apply selectInstr_cases
    (P := fun i => exec i s = writeResult i (decodeRecord w).rd (executeStage (decodeRecord w) s) s) (fieldsOf w)
  case lui => intro h; rw [executeStage_of_lui h, decodeRecord_imm_of_upper (.inl h)]; rfl
  case auipc => intro h; rw [executeStage_of_auipc h, decodeRecord_imm_of_upper (.inr h)]; rfl
  case jal => intro h; rw [executeStage_of_jal h]; rfl
  case jalr => intro h; rw [executeStage_of_jalr h, decodeRecord_imm_of_jalr h]; rfl
  case branch => exact fun h => exec_selectBranch h s
  case opImm => exact fun h => exec_selectOpImm h s
  case op => exact fun h => exec_selectOp h s
  case load => exact fun h => absurd h hl
  case store => exact fun h => absurd h hs
  case system => intro h; rw [executeStage_of_unrecognised s (.inl h)]; rfl
  case miscMem => intro h; rw [executeStage_of_unrecognised s (.inr (.inl h))]; rfl
  case other => intro h; rw [executeStage_of_unrecognised s (.inr (.inr h))]; rfl

end Sys2Proof.Machine
end

section
/-!
PROOFS. What one step does, by the record of the fetched word, and what a step and a host move leave as
it was: the facts the statements about the state (spec/10_state.md) are assembled from.
-/

namespace Sys2Proof.Machine

/-- What the instruction word `w` did to `s`, by its record and its Execution Unit result (R98, R99, R102, R104). -/
inductive WordEffect (w : Word) (s : State) : State → Prop where
  /-- a load completed: the cell that the result names went to x[rd] -/
  | loaded (hop : (decodeRecord w).opcode = Config.opcLoad) (ha : inRange (executeStage (decodeRecord w) s) = true) :
      WordEffect w s (complete (decode w) (some (decodeRecord w).rd)
        (s.setReg (decodeRecord w).rd (Memory.read s.dmem (cellOf (executeStage (decodeRecord w) s)))))
  /-- a store completed: x[rs2] went to the cell that the result names -/
  | stored (hop : (decodeRecord w).opcode = Config.opcStore) (ha : inRange (executeStage (decodeRecord w) s) = true) :
      WordEffect w s (complete (decode w) none
        { s with dmem := Memory.write s.dmem (cellOf (executeStage (decodeRecord w) s)) (s.reg (decodeRecord w).rs2) })
  /-- a load or a store took the fault at the result, which names no cell -/
  | faulted (hop : (decodeRecord w).opcode = Config.opcLoad ∨ (decodeRecord w).opcode = Config.opcStore)
      (ha : inRange (executeStage (decodeRecord w) s) = false) :
      WordEffect w s (takeFault (executeStage (decodeRecord w) s) s)
  /-- any other word completed: the result went to x[rd] -/
  | computed (hl : (decodeRecord w).opcode ≠ Config.opcLoad) (hs : (decodeRecord w).opcode ≠ Config.opcStore) :
      WordEffect w s (complete (decode w) (some (decodeRecord w).rd)
        (s.setReg (decodeRecord w).rd (executeStage (decodeRecord w) s)))

/-- The instruction of every word answers a next state, by one of the four effects. -/
theorem exec_decode_wordEffect (w : Word) (s : State) : ∃ t, exec (decode w) s = .next t ∧ WordEffect w s t := by
  by_cases hl : (decodeRecord w).opcode = Config.opcLoad
  · rw [exec_decode_of_load hl]
    cases ha : inRange (executeStage (decodeRecord w) s)
    · exact ⟨_, loadCell_of_not ha, .faulted (.inl hl) ha⟩
    · exact ⟨_, loadCell_of_inRange ha, .loaded hl ha⟩
  by_cases hs : (decodeRecord w).opcode = Config.opcStore
  · rw [exec_decode_of_store hs]
    cases ha : inRange (executeStage (decodeRecord w) s)
    · exact ⟨_, storeCell_of_not ha, .faulted (.inr hs) ha⟩
    · exact ⟨_, storeCell_of_inRange ha, .stored hs ha⟩
  · exact ⟨_, exec_decode_of_neither hl hs s, .computed hl hs⟩

/-- The four effects determine the answer. -/
theorem WordEffect.exec_eq {w : Word} {s t : State} (h : WordEffect w s t) : exec (decode w) s = .next t := by
  cases h with
  | loaded hop ha => exact (exec_decode_of_load hop s).trans (loadCell_of_inRange ha)
  | stored hop ha => exact (exec_decode_of_store hop s).trans (storeCell_of_inRange ha)
  | computed hl hs => exact exec_decode_of_neither hl hs s
  | faulted hop ha =>
    rcases hop with hop | hop
    · exact (exec_decode_of_load hop s).trans (loadCell_of_not ha)
    · exact (exec_decode_of_store hop s).trans (storeCell_of_not ha)

/-- Every step answers a next state. -/
theorem step_total (s : State) : ∃ t, step s = .next t := by
  cases hr : s.runState with
  | halted => exact ⟨s, step_of_halted hr⟩
  | faulted a => exact ⟨s, step_of_faulted hr⟩
  | running =>
    cases hf : s.fetch with
    | none => exact ⟨s.halt, step_of_unmapped hr hf⟩
    | some w =>
      obtain ⟨t, ht, -⟩ := exec_decode_wordEffect w s
      exact ⟨t, (step_of_fetch hr hf).trans ht⟩

/-- What one step did: nothing in a terminal state, the halting step, or the effect of the fetched word (R91, R104). -/
inductive StepEffect (s : State) : State → Prop where
  | terminal (hr : s.runState ≠ .running) : StepEffect s s
  | halts (hr : s.runState = .running) (hf : s.fetch = none) : StepEffect s s.halt
  | executes {t : State} (w : Word) (hw : s.executing w) (he : WordEffect w s t) : StepEffect s t

/-- A step that finds a word answers its effect. -/
theorem step_of_wordEffect {w : Word} {s t : State} (hw : s.executing w) (he : WordEffect w s t) : step s = .next t :=
  (step_of_fetch hw.1 hw.2).trans he.exec_eq

theorem stepEffect_of_step {s t : State} (h : step s = .next t) : StepEffect s t := by
  rcases step_cases h with ⟨hr, rfl⟩ | ⟨hr, hf, rfl⟩ | ⟨w, hr, hf, hx, -⟩
  · exact .terminal hr
  · exact .halts hr hf
  · obtain ⟨u, hu, he⟩ := exec_decode_wordEffect w s
    cases hx.symm.trans hu
    exact .executes w ⟨hr, hf⟩ he

/-! ### Fetching (R47, R48, R91) -/

/-- A mapped pc lies below the end of the image. -/
theorem State.pc_lt_of_fetch {s : State} {w : Word} (h : s.fetch = some w) : s.pc < 4 * s.imem.length := by
  rw [State.fetch, fetchAt_eq] at h
  split_ifs at h
  have := (List.getElem?_eq_some_iff.mp h).1
  omega

/-- An aligned pc that is not mapped lies at the end of the image or beyond. -/
theorem State.le_pc_of_fetch_none {s : State} (hpc : s.pc % 4 = 0) (h : s.fetch = none) : 4 * s.imem.length ≤ s.pc := by
  rw [State.fetch, fetchAt_eq, if_pos hpc, List.getElem?_eq_none_iff] at h
  omega

/-! ### What an executed word changes, field by field -/

/-- No instruction changes the image (R28). -/
theorem WordEffect.imem_eq {w : Word} {s t : State} (h : WordEffect w s t) : t.imem = s.imem := by
  cases h <;> rfl

/-- An executed word runs to its end, and pc goes on by 4, or it faults, and pc stays (R23, R101, R102). -/
theorem WordEffect.pc_cases {w : Word} {s t : State} (h : WordEffect w s t) :
    (t.runState = s.runState ∧ t.pc = s.pc + 4) ∨ ((∃ a, t.runState = .faulted a) ∧ t.pc = s.pc) := by
  cases h with
  | loaded | stored | computed => exact .inl ⟨rfl, rfl⟩
  | faulted => exact .inr ⟨⟨_, rfl⟩, rfl⟩

/-- Every instruction keeps data memory in canonical form inside the data space (R27, R43). -/
theorem WordEffect.dmem_wf {w : Word} {s t : State} (h : WordEffect w s t) (hm : Memory.wf s.dmem = true) :
    Memory.wf t.dmem = true := by
  cases h with
  | loaded | faulted | computed => exact hm
  | stored _ ha => exact Memory.write_wf hm (cellOf_lt ha) _

/-- Only a store in range changes a cell (R27, R43). -/
theorem WordEffect.dmem_eq_or_store {w : Word} {s t : State} (h : WordEffect w s t) :
    t.dmem = s.dmem ∨
      (decodeRecord w).opcode = Config.opcStore ∧ InDataSpace (executeStage (decodeRecord w) s) := by
  cases h with
  | loaded | faulted | computed => exact .inl rfl
  | stored hop ha => exact .inr ⟨hop, (inRange_iff _).mp ha⟩

/-- An instruction run from Running records a fault only at an address out of range (R42, R222). -/
theorem WordEffect.fault_out_of_range {w : Word} {s t : State} (h : WordEffect w s t) (hr : s.runState = .running)
    {a : Word} (ha : t.runState = .faulted a) : ¬InDataSpace a := by
  cases h with
  | loaded | stored | computed => simp [hr] at ha
  | faulted _ hout =>
    cases ha
    exact fun hin => by simp [inRange_of_inDataSpace hin] at hout

/-- The record of a completed word is current, whatever was published before (R31, R204). -/
theorem snapshotCurrent_complete {w : Word} {s : State} {written : Option RegIdx}
    (h : written = if (decodeRecord w).opcode = Config.opcStore then none else some (decodeRecord w).rd) :
    (complete (decode w) written s).snapshotCurrent := by
  rintro p hp
  rw [complete_snapshot, encode_decode] at hp
  cases hp
  exact ⟨rfl, rfl, rfl, h⟩

/-- An executed word leaves the published record current: a completed one publishes its own, a faulting one changes neither
the registers nor pc (R31, R102). -/
theorem WordEffect.snapshotCurrent {w : Word} {s t : State} (h : WordEffect w s t) (hs : s.snapshotCurrent) :
    t.snapshotCurrent := by
  cases h with
  | loaded hop => exact snapshotCurrent_complete (if_neg (by rw [hop]; decide)).symm
  | stored hop => exact snapshotCurrent_complete (if_pos hop).symm
  | faulted => exact hs
  | computed _ hop => exact snapshotCurrent_complete (if_neg hop).symm

/-! ### What a step and a host move leave as it was -/

/-- No step changes the image (R28, R53). -/
theorem step_imem_eq {s t : State} (h : step s = .next t) : t.imem = s.imem := by
  cases stepEffect_of_step h with
  | terminal | halts => rfl
  | executes w _ he => exact he.imem_eq

/-- A step in Halted or Faulted leaves the state (R91). -/
theorem step_eq_of_not_running {s t : State} (h : step s = .next t) (hr : s.runState ≠ .running) : t = s := by
  cases stepEffect_of_step h with
  | terminal => rfl
  | halts hrun => exact absurd hrun hr
  | executes w hw => exact absurd hw.1 hr

/-- No step takes pc back (R23). -/
theorem step_pc_le {s t : State} (h : step s = .next t) : s.pc ≤ t.pc := by
  cases stepEffect_of_step h with
  | terminal | halts => exact le_refl _
  | executes w _ he => rcases he.pc_cases with ⟨-, hpc⟩ | ⟨-, hpc⟩ <;> omega

theorem hostStep_of_step {s t : State} (h : step s = .next t) :
    hostStep s = { core := t, reply := replyOf t, notes := notificationsOf s t } := by
  simp [hostStep, h]

/-- The core after a host's step call is the core after a step (R202). -/
theorem step_hostStep_core (s : State) : step s = .next (hostStep s).core := by
  obtain ⟨t, ht⟩ := step_total s
  rw [hostStep_of_step ht, ht]

/-- `loadProgram` replaces the image or is refused; it touches nothing else of the core (R200, R201). -/
theorem System.load_core (y : System) (words : List Int) :
    ∃ ws, (y.load words).system.core = { y.core with imem := ws } := by
  by_cases hlen : (words.map wrap).length ≤ Config.progWordsMax
  · exact ⟨words.map wrap, by simp only [System.load, loadProgram, loadWords, if_pos hlen]⟩
  · exact ⟨y.core.imem, by simp only [System.load, loadProgram, loadWords, if_neg hlen]⟩

/-- A host move steps the core, or replaces at most its image (R210). -/
theorem System.move_core_cases (y : System) (m : HostMove) :
    step y.core = .next (y.move m).system.core ∨ ∃ ws, (y.move m).system.core = { y.core with imem := ws } := by
  cases m with
  | loadProgram words => exact .inr (y.load_core words)
  | step => exact .inl (step_hostStep_core y.core)
  | run rate => exact .inr ⟨y.core.imem, rfl⟩
  | workerStep =>
    by_cases hw : y.worker = true
    · exact .inl (by simpa [System.move, System.workerMove, hw] using step_hostStep_core y.core)
    · exact .inr ⟨y.core.imem, by simp [System.move, System.workerMove, hw]⟩

/-! ### The snapshot is not read (R30, R31) -/

@[simp] theorem executeStage_withSnapshot (d : Decoded) (s : State) (p : Option Snapshot) :
    executeStage d { s with snapshot := p } = executeStage d s := rfl

/-- An instruction does the same whatever was published before: it publishes its own record, or it faults and leaves what
was there. -/
theorem WordEffect.withSnapshot {w : Word} {s t : State} (h : WordEffect w s t) (p : Option Snapshot) :
    WordEffect w { s with snapshot := p } t ∨
      WordEffect w { s with snapshot := p } { t with snapshot := p } ∧ t.runState ≠ .running := by
  cases h with
  | loaded hop ha => exact .inl (.loaded (s := { s with snapshot := p }) hop ha)
  | stored hop ha => exact .inl (.stored (s := { s with snapshot := p }) hop ha)
  | faulted hop ha => exact .inr ⟨.faulted (s := { s with snapshot := p }) hop ha, by simp⟩
  | computed hl hs => exact .inl (.computed (s := { s with snapshot := p }) hl hs)

/-- A step does the same whatever was published before: it ends in the same state, or it publishes nothing and leaves what
was there. -/
theorem step_withSnapshot {s t : State} (h : step s = .next t) (p : Option Snapshot) :
    step { s with snapshot := p } = .next t ∨
      step { s with snapshot := p } = .next { t with snapshot := p } ∧ (s.runState ≠ .running ∨ t.runState ≠ .running) := by
  cases stepEffect_of_step h with
  | terminal hr =>
    obtain ⟨u, hu⟩ := step_total { s with snapshot := p }
    have heq := step_eq_of_not_running hu hr
    exact .inr ⟨heq ▸ hu, .inl hr⟩
  | halts hr hf => exact .inr ⟨step_of_unmapped hr hf, .inr (by simp)⟩
  | executes w hw he =>
    rcases he.withSnapshot p with he | ⟨he, ht⟩
    · exact .inl (step_of_wordEffect hw he)
    · exact .inr ⟨step_of_wordEffect hw he, .inr ht⟩

/-- A step that does not go from Running to Running emits nothing that depends on the snapshots. -/
theorem notificationsOf_withSnapshot {s t : State} (h : s.runState ≠ .running ∨ t.runState ≠ .running)
    (p : Option Snapshot) :
    notificationsOf { s with snapshot := p } { t with snapshot := p } = notificationsOf s t := by
  cases hs : s.runState with
  | halted | faulted => simp [notificationsOf, hs]
  | running =>
    cases ht : t.runState with
    | halted | faulted => simp [notificationsOf, hs, ht]
    | running => simp [hs, ht] at h

end Sys2Proof.Machine
end

section
/-!
PROOFS. The statements about the state (spec/10_state.md): the invariant, pc, data memory, the image, the
terminal run states, reset, and the snapshot.
-/

namespace Sys2Proof.Machine

/-! ### The invariant -/

/-- The effect of one word keeps the invariant of a Running core. -/
theorem WordEffect.inv {w : Word} {s t : State} (h : WordEffect w s t) (hr : s.runState = .running) (hs : s.Inv) :
    t.Inv := by
  obtain ⟨hpc, hmem, himem, -, hsnap⟩ := hs
  refine ⟨?_, h.dmem_wf hmem, h.imem_eq ▸ himem, fun _ => h.fault_out_of_range hr, h.snapshotCurrent hsnap⟩
  rcases h.pc_cases with ⟨-, hpc'⟩ | ⟨-, hpc'⟩ <;> omega

/-- Settles O15: a step does nothing, or halts and leaves every field the invariant reads but the run state, or has the effect
of the fetched word. -/
theorem stepKeepsTheInvariant : Obligations.StepKeepsTheInvariant := by
  intro s t hs h
  cases stepEffect_of_step h with
  | terminal => exact hs
  | executes w hw he => exact he.inv hw.1 hs
  | halts =>
    obtain ⟨hpc, hmem, himem, -, hsnap⟩ := hs
    exact ⟨hpc, hmem, himem, fun _ ha => by simp at ha, hsnap⟩

/-- The state after reset has the invariant for any canonical data memory. -/
theorem State.resetWith_inv {mem : Memory} (h : Memory.wf mem = true) : (State.resetWith mem).Inv :=
  ⟨rfl, h, Nat.zero_le _, fun _ ha => by simp at ha, fun _ hp => by simp at hp⟩

/-- Settles O16. -/
theorem resetHasTheInvariant : Obligations.ResetHasTheInvariant :=
  ⟨State.resetWith_inv State.reset_dmem_wf, fun _ => State.resetWith_inv⟩

/-! ### The program counter -/

/-- Settles O18: an executed word lies inside the image, so pc + 4 is at most 4N; an aligned pc that is not mapped is at
least 4N. -/
theorem pcStaysInTheImage : Obligations.PcStaysInTheImage := by
  rintro s t ⟨halign, hle⟩ h
  unfold State.pcInImage
  rw [step_imem_eq h]
  cases stepEffect_of_step h with
  | terminal hr => exact ⟨⟨halign, hle⟩, fun hrun => absurd hrun hr⟩
  | halts _ hf =>
    have := State.le_pc_of_fetch_none halign hf
    exact ⟨⟨halign, hle⟩, fun _ _ => le_antisymm hle this⟩
  | executes w hw he =>
    have hlt := State.pc_lt_of_fetch hw.2
    rcases he.pc_cases with ⟨hrun, hpc⟩ | ⟨⟨a, hfault⟩, hpc⟩
    · refine ⟨by omega, fun _ hhalt => ?_⟩
      rw [State.completed, hrun, hw.1] at hhalt
      cases hhalt
    · refine ⟨by omega, fun _ hhalt => ?_⟩
      rw [State.completed, hfault] at hhalt
      cases hhalt

/-- Settles O19: pc goes on exactly where the fetched word's effect leaves the core Running. -/
theorem pcChangesOnlyByFour : Obligations.PcChangesOnlyByFour := by
  intro s t h
  cases stepEffect_of_step h with
  | terminal hr => exact ⟨fun hrun => absurd hrun hr, fun _ => rfl⟩
  | halts => exact ⟨fun _ _ hrun => by simp at hrun, fun _ => rfl⟩
  | executes w hw he =>
    rcases he.pc_cases with ⟨hrun, hpc⟩ | ⟨⟨a, hfault⟩, hpc⟩
    · refine ⟨fun _ _ _ => hpc, fun hnot => ?_⟩
      simp [hrun, hw.1, hw.2] at hnot
    · exact ⟨fun _ _ hrun => by simp [hfault] at hrun, fun _ => hpc⟩

/-! ### Data memory and the image -/

/-- Settles O20: of the effects a step can have, only that of a store in range touches data memory. -/
theorem onlyStoresChangeDataMemory : Obligations.OnlyStoresChangeDataMemory := by
  rintro s t h ⟨c, hc⟩
  cases stepEffect_of_step h with
  | terminal | halts => exact absurd rfl hc
  | executes w hw he =>
    rcases he.dmem_eq_or_store with heq | hstore
    · exact absurd (by rw [heq]) hc
    · exact ⟨w, hw, hstore⟩

/-- Settles O22. -/
theorem noStepChangesTheImage : Obligations.NoStepChangesTheImage := by
  intro s t h
  have himem := step_imem_eq h
  exact ⟨himem, fun a => by rw [himem]⟩

/-! ### Terminal run states and reset -/

/-- Settles O24: a host move is a step, which leaves a terminal state and never takes pc back, or it replaces the image. -/
theorem haltedAndFaultedAreTerminal : Obligations.HaltedAndFaultedAreTerminal := by
  refine ⟨fun y m hr => ?_, fun y m => ?_, fun y words => ?_⟩
  · rcases y.move_core_cases m with hstep | ⟨ws, hload⟩
    · rw [step_eq_of_not_running hstep hr]
    · rw [hload]
  · rcases y.move_core_cases m with hstep | ⟨ws, hload⟩
    · exact step_pc_le hstep
    · rw [hload]
  · obtain ⟨ws, hload⟩ := y.load_core words
    simp [System.move, hload]

/-- Settles O25: the fields of the reset state, and the first fetch at pc 0. -/
theorem resetValues : Obligations.ResetValues := by
  intro mem
  refine ⟨State.resetWith_reg mem, rfl, rfl, fun a => ?_, rfl, fun _ => rfl, fun words => ?_⟩
  · simp [fetchAt_eq]
  · simp [State.fetch, fetchAt_eq]

/-! ### The snapshot -/

/-- Settles O51: either the two steps end in one state, or neither publishes and both emit the same. -/
theorem snapshotNeverInfluencesExecution : Obligations.SnapshotNeverInfluencesExecution := by
  intro s p
  obtain ⟨t, ht⟩ := step_total s
  rcases step_withSnapshot ht p with ht' | ⟨ht', hquiet⟩
  · refine ⟨t, t, ht, ht', rfl, ?_⟩
    rw [hostStep_of_step ht, hostStep_of_step ht']
    exact ⟨rfl, rfl⟩
  · refine ⟨t, _, ht, ht', rfl, ?_⟩
    rw [hostStep_of_step ht, hostStep_of_step ht']
    exact ⟨rfl, notificationsOf_withSnapshot hquiet p⟩

end Sys2Proof.Machine
end

section
/-!
PROOFS. The statements about data memory (spec/20_memory.md): a store that completes, then a load of the same cell.
-/

namespace Sys2Proof.Machine

/-- The step of a core about to run a word has that word's effect (R91, R104). -/
theorem wordEffect_of_step {w : Word} {s t : State} (hw : s.executing w) (h : step s = .next t) : WordEffect w s t := by
  obtain ⟨u, hu, he⟩ := exec_decode_wordEffect w s
  rw [step_of_fetch hw.1 hw.2, hu] at h
  cases h
  exact he

/-- A store that leaves the core Running stored x[rs2]: its address names a cell, and that cell holds the register (R43, R98). -/
theorem WordEffect.read_stored {w : Word} {s t : State} (h : WordEffect w s t)
    (hop : (decodeRecord w).opcode = Config.opcStore) (ht : t.runState = .running) :
    inRange (executeStage (decodeRecord w) s) = true ∧
      Memory.read t.dmem (cellOf (executeStage (decodeRecord w) s)) = s.reg (decodeRecord w).rs2 := by
  cases h with
  | loaded hload => exact absurd (hload.symm.trans hop) (by decide)
  | stored _ ha => exact ⟨ha, Memory.read_write_same ..⟩
  | faulted => simp at ht
  | computed _ hs => exact absurd hop hs

/-- A step that runs a load of an existing cell completes, with the cell in x[rd] (R98, R99). -/
theorem step_of_load {w : Word} {s : State} (hw : s.executing w) (hop : (decodeRecord w).opcode = Config.opcLoad)
    (ha : inRange (executeStage (decodeRecord w) s) = true) :
    ∃ t, step s = .next t ∧ t.runState = .running ∧
      t.reg (decodeRecord w).rd = Memory.read s.dmem (cellOf (executeStage (decodeRecord w) s)) :=
  ⟨_, step_of_wordEffect hw (.loaded hop ha), hw.1, by simp⟩

/-- Settles O49: the store left the core Running, so its address names a cell, which holds the stored register; the load, at
the same address, puts that cell in its x[rd]. -/
theorem storeThenLoadReturnsTheStoredValue : Obligations.StoreThenLoadReturnsTheStoredValue := by
  intro s t w w' hw hstore hstep hw' hload haddr
  obtain ⟨hin, hcell⟩ := (wordEffect_of_step hw hstep).read_stored hstore hw'.1
  rw [← haddr] at hin hcell
  obtain ⟨u, hu, hrun, hrd⟩ := step_of_load hw' hload hin
  exact ⟨u, hu, hrun, hrd.trans hcell⟩

end Sys2Proof.Machine
end

section
/-!
PROOFS. The decoder against the encoder and against the opcode table (R70 to R73, R76, R77): a well-formed
instruction is selected back from its own fields, whatever is selected is well formed, and the first table row
that matches a word names the instruction selected.
-/

namespace Sys2Proof

/-! ### Selecting from an instruction's own fields (R71, R72) -/

/-- Selection gives a well-formed instruction back from its fields. Its row's opcode and funct3 choose the branch; an
immediate field is put together again from its parts; the condition of well-formedness decides the zero test on funct7 and
keeps OTHER apart from the named opcodes. -/
theorem selectInstr_instrFields {i : Instr} (h : i.wf = true) : selectInstr (instrFields i) = i := by
  cases i with
  | beq | bne | blt | bge | bltu | bgeu | branchF2 | branchF3 => rfl
  | addi | slli | srli => rfl
  | add | sll | slt | sltu | xor | srl | or | and => rfl
  | lb | lh | lhu => rfl
  | sb | sh | sw | storeF3 | storeF4 | storeF5 | storeF6 | storeF7 => rfl
  | lui | auipc | jal | system | miscMem => exact congrArg _ (imm20_parts _)
  | jalr | slti | sltiu | xori | ori | andi | lw | loadF3 | lbu | loadF6 | loadF7 => exact congrArg _ (imm12_parts _)
  | addiNz | lbNz =>
    have hz := bne_iff_ne.mp h
    simp +decide [selectInstr, selectOpImm, selectLoad, instrFields, fieldsI, immFunct7, Fields.imm12, imm12_parts, hz]
  | srai | sub | sra | lhuNz | sbNz | storeF5Nz =>
    have hz := bne_iff_ne.mp h
    simp +decide [selectInstr, selectOpImm, selectOp, selectLoad, selectStore, instrFields, fieldsR, hz]
  | other opcode rd hi =>
    have ho : opcode ∉ namedOpcodes := by simpa [Instr.wf] using h
    simp only [namedOpcodes, List.mem_cons, not_or] at ho
    simp [selectInstr, instrFields, fieldsHi, Fields.imm20, imm20_parts, ho]

/-- Settles O1: the word's fields are the instruction's fields, from which selection gives it back. -/
theorem decodeOfEncodeIsTheInstruction : Obligations.DecodeOfEncodeIsTheInstruction := by
  intro i h
  rw [decode, encode, fieldsOf_packFields, selectInstr_instrFields h]

/-- Settles O2. -/
theorem reencodingFieldsRecoversEveryWord : Obligations.ReencodingFieldsRecoversEveryWord :=
  fun w => ⟨packFields_fieldsOf w, packFields_fieldsOf w, encode_decode w⟩

/-! ### What is selected is well formed (R70, R72, R192) -/

theorem Fields.imm12_extract_high (f : Fields) : f.imm12.extractLsb' 5 7 = f.funct7 := f.imm12_high

theorem selectBranch_wf (f : Fields) : (selectBranch f).wf = true := by
  rcases funct3_cases f.funct3 with hg | hg | hg | hg | hg | hg | hg | hg <;> simp [selectBranch, hg, Instr.wf]

theorem selectOpImm_wf (f : Fields) : (selectOpImm f).wf = true := by
  by_cases hz : f.funct7 = 0#7 <;>
    rcases funct3_cases f.funct3 with hg | hg | hg | hg | hg | hg | hg | hg <;>
      simp [selectOpImm, hg, hz, Instr.wf, Fields.imm12_extract_high]

theorem selectOp_wf (f : Fields) : (selectOp f).wf = true := by
  by_cases hz : f.funct7 = 0#7 <;>
    rcases funct3_cases f.funct3 with hg | hg | hg | hg | hg | hg | hg | hg <;> simp [selectOp, hg, hz, Instr.wf]

theorem selectLoad_wf (f : Fields) : (selectLoad f).wf = true := by
  by_cases hz : f.funct7 = 0#7 <;>
    rcases funct3_cases f.funct3 with hg | hg | hg | hg | hg | hg | hg | hg <;>
      simp [selectLoad, hg, hz, Instr.wf, Fields.imm12_extract_high]

theorem selectStore_wf (f : Fields) : (selectStore f).wf = true := by
  by_cases hz : f.funct7 = 0#7 <;>
    rcases funct3_cases f.funct3 with hg | hg | hg | hg | hg | hg | hg | hg <;> simp [selectStore, hg, hz, Instr.wf]

theorem selectInstr_wf (f : Fields) : (selectInstr f).wf = true := by
  apply selectInstr_cases (P := fun i => i.wf = true) f
  case lui | auipc | jal | jalr | system | miscMem => exact fun _ => rfl
  case branch => exact fun _ => selectBranch_wf f
  case opImm => exact fun _ => selectOpImm_wf f
  case op => exact fun _ => selectOp_wf f
  case load => exact fun _ => selectLoad_wf f
  case store => exact fun _ => selectStore_wf f
  case other => exact fun h => by simpa [Instr.wf] using h

/-- Settles O3. -/
theorem everyWordDecodesToWellFormed : Obligations.EveryWordDecodesToWellFormed :=
  fun w => selectInstr_wf (fieldsOf w)

/-! ### When a table row matches, field by field (R77) -/

/-- The bitwise and of two words, field by field. -/
def Fields.and (f g : Fields) : Fields where
  opcode := f.opcode &&& g.opcode
  rd := f.rd &&& g.rd
  funct3 := f.funct3 &&& g.funct3
  rs1 := f.rs1 &&& g.rs1
  rs2 := f.rs2 &&& g.rs2
  funct7 := f.funct7 &&& g.funct7

theorem fieldsOf_and (v w : Word) : fieldsOf (v &&& w) = (fieldsOf v).and (fieldsOf w) := by
  simp [fieldsOf, Fields.and, BitVec.extractLsb'_and]

theorem fieldsOf_inj {v w : Word} : fieldsOf v = fieldsOf w ↔ v = w :=
  ⟨fun h => by rw [← packFields_fieldsOf v, h, packFields_fieldsOf], congrArg fieldsOf⟩

theorem rowMatches_packFields (f mask : Fields) (name : String) (m : Word) :
    rowMatches (packFields f) (name, packFields mask, m) = decide (f.and mask = fieldsOf m) := by
  rw [rowMatches, Bool.beq_eq_decide_eq, decide_eq_decide, ← fieldsOf_inj, fieldsOf_and, fieldsOf_packFields,
    fieldsOf_packFields]

/-- A row with mask 0x7F looks at the opcode. -/
theorem rowMatches_opcodeMask (f : Fields) (name : String) (m : Word) :
    rowMatches (packFields f) (name, 0x7F#32, m) =
      decide ((⟨f.opcode, 0#5, 0#3, 0#5, 0#5, 0#7⟩ : Fields) = fieldsOf m) := by
  refine (rowMatches_packFields f ⟨.allOnes 7, 0#5, 0#3, 0#5, 0#5, 0#7⟩ name m).trans ?_
  simp only [Fields.and, BitVec.and_allOnes, BitVec.and_zero]

/-- A row with mask 0x707F looks at opcode and funct3. -/
theorem rowMatches_funct3Mask (f : Fields) (name : String) (m : Word) :
    rowMatches (packFields f) (name, 0x707F#32, m) =
      decide ((⟨f.opcode, 0#5, f.funct3, 0#5, 0#5, 0#7⟩ : Fields) = fieldsOf m) := by
  refine (rowMatches_packFields f ⟨.allOnes 7, 0#5, .allOnes 3, 0#5, 0#5, 0#7⟩ name m).trans ?_
  simp only [Fields.and, BitVec.and_allOnes, BitVec.and_zero]

/-- A row with mask 0xFE00707F looks at opcode, funct3 and funct7. -/
theorem rowMatches_funct7Mask (f : Fields) (name : String) (m : Word) :
    rowMatches (packFields f) (name, 0xFE00707F#32, m) =
      decide ((⟨f.opcode, 0#5, f.funct3, 0#5, 0#5, f.funct7⟩ : Fields) = fieldsOf m) := by
  refine (rowMatches_packFields f ⟨.allOnes 7, 0#5, .allOnes 3, 0#5, 0#5, .allOnes 7⟩ name m).trans ?_
  simp only [Fields.and, BitVec.and_allOnes, BitVec.and_zero]

/-- A row whose mask covers the opcode matches only words of its own opcode. -/
theorem opcode_eq_of_rowMatches {f : Fields} {row : TableRow} (hmask : (fieldsOf row.2.1).opcode = .allOnes 7)
    (h : rowMatches (packFields f) row = true) : (fieldsOf row.2.2).opcode = f.opcode := by
  rw [rowMatches, beq_iff_eq] at h
  rw [← h, fieldsOf_and, fieldsOf_packFields, Fields.and, hmask, BitVec.and_allOnes]

/-! ### The first matching row, class by class (R71, R72, R77) -/

/-- A block of the table decides the first matching row when every row before it is one of another opcode. -/
theorem firstRow_of_block {f : Fields} {pre rows post : List TableRow} {name : String}
    (htable : opcodeTable = pre ++ (rows ++ post))
    (hmask : ∀ row ∈ pre, (fieldsOf row.2.1).opcode = .allOnes 7)
    (hpre : ∀ row ∈ pre, (fieldsOf row.2.2).opcode ≠ f.opcode)
    (hrows : (rows.find? (rowMatches (packFields f))).map Prod.fst = some name) :
    (firstRow (packFields f)).map Prod.fst = some name := by
  have hnone : pre.find? (rowMatches (packFields f)) = none :=
    List.find?_eq_none.mpr fun row hrow h => hpre row hrow (opcode_eq_of_rowMatches (hmask row hrow) h)
  obtain ⟨row, hrow, hname⟩ := Option.map_eq_some_iff.mp hrows
  rw [firstRow, htable, List.find?_append, hnone, Option.none_or, List.find?_append, hrow, Option.some_or,
    Option.map_some, hname]

theorem find?_rowsBranch {f : Fields} (h : f.opcode = Config.opcBranch) :
    (rowsBranch.find? (rowMatches (packFields f))).map Prod.fst = some (mnemonicOf (selectBranch f)) := by
  rcases funct3_cases f.funct3 with hg | hg | hg | hg | hg | hg | hg | hg <;>
    simp [rowsBranch, rowMatches_funct3Mask, selectBranch, mnemonicOf, Config.opcBranch, fieldsOf, h, hg]

theorem find?_rowsOpImm {f : Fields} (h : f.opcode = Config.opcOpImm) :
    (rowsOpImm.find? (rowMatches (packFields f))).map Prod.fst = some (mnemonicOf (selectOpImm f)) := by
  by_cases hz : f.funct7 = 0#7 <;>
    rcases funct3_cases f.funct3 with hg | hg | hg | hg | hg | hg | hg | hg <;>
      simp [rowsOpImm, rowMatches_funct3Mask, rowMatches_funct7Mask, selectOpImm, mnemonicOf, Config.opcOpImm, fieldsOf,
        h, hg, hz]

theorem find?_rowsOp {f : Fields} (h : f.opcode = Config.opcOp) :
    (rowsOp.find? (rowMatches (packFields f))).map Prod.fst = some (mnemonicOf (selectOp f)) := by
  by_cases hz : f.funct7 = 0#7 <;>
    rcases funct3_cases f.funct3 with hg | hg | hg | hg | hg | hg | hg | hg <;>
      simp [rowsOp, rowMatches_funct3Mask, rowMatches_funct7Mask, selectOp, mnemonicOf, Config.opcOp, fieldsOf, h, hg, hz]

theorem find?_rowsLoad {f : Fields} (h : f.opcode = Config.opcLoad) :
    (rowsLoad.find? (rowMatches (packFields f))).map Prod.fst = some (mnemonicOf (selectLoad f)) := by
  by_cases hz : f.funct7 = 0#7 <;>
    rcases funct3_cases f.funct3 with hg | hg | hg | hg | hg | hg | hg | hg <;>
      simp [rowsLoad, rowMatches_funct3Mask, rowMatches_funct7Mask, selectLoad, mnemonicOf, Config.opcLoad, fieldsOf, h,
        hg, hz]

theorem find?_rowsStore {f : Fields} (h : f.opcode = Config.opcStore) :
    (rowsStore.find? (rowMatches (packFields f))).map Prod.fst = some (mnemonicOf (selectStore f)) := by
  by_cases hz : f.funct7 = 0#7 <;>
    rcases funct3_cases f.funct3 with hg | hg | hg | hg | hg | hg | hg | hg <;>
      simp [rowsStore, rowMatches_funct3Mask, rowMatches_funct7Mask, selectStore, mnemonicOf, Config.opcStore, fieldsOf,
        h, hg, hz]

/-- The first matching row carries the mnemonic of the instruction selected (R77). -/
theorem firstRow_packFields (f : Fields) :
    (firstRow (packFields f)).map Prod.fst = some (mnemonicOf (selectInstr f)) := by
  apply selectInstr_cases (P := fun i => (firstRow (packFields f)).map Prod.fst = some (mnemonicOf i)) f
  case lui | auipc | jal | jalr =>
    intro h
    apply firstRow_of_block (pre := []) (rows := rowsUpperJump) rfl (by simp) (by simp)
    simp [rowsUpperJump, rowMatches_opcodeMask, h, fieldsOf, mnemonicOf, Config.opcLui, Config.opcAuipc, Config.opcJal,
      Config.opcJalr]
  case branch =>
    intro h
    exact firstRow_of_block (pre := rowsUpperJump) rfl (by decide) (by rw [h]; decide) (find?_rowsBranch h)
  case opImm =>
    intro h
    exact firstRow_of_block (pre := rowsUpperJump ++ rowsBranch) rfl (by decide) (by rw [h]; decide) (find?_rowsOpImm h)
  case op =>
    intro h
    exact firstRow_of_block (pre := rowsUpperJump ++ rowsBranch ++ rowsOpImm) rfl (by decide) (by rw [h]; decide)
      (find?_rowsOp h)
  case load =>
    intro h
    exact firstRow_of_block (pre := rowsUpperJump ++ rowsBranch ++ rowsOpImm ++ rowsOp) rfl (by decide)
      (by rw [h]; decide) (find?_rowsLoad h)
  case store =>
    intro h
    exact firstRow_of_block (pre := rowsUpperJump ++ rowsBranch ++ rowsOpImm ++ rowsOp ++ rowsLoad) rfl (by decide)
      (by rw [h]; decide) (find?_rowsStore h)
  case system | miscMem =>
    intro h
    apply firstRow_of_block (pre := rowsUpperJump ++ rowsBranch ++ rowsOpImm ++ rowsOp ++ rowsLoad ++ rowsStore)
      (rows := rowsUnrecognised) (post := []) rfl (by decide) (by rw [h]; decide)
    simp [rowsUnrecognised, rowMatches_opcodeMask, h, fieldsOf, mnemonicOf, Config.opcSystem, Config.opcMiscMem]
  case other =>
    intro h
    have hnamed : ∀ row ∈ opcodeTable.dropLast, (fieldsOf row.2.2).opcode ∈ namedOpcodes := by decide
    refine firstRow_of_block (pre := opcodeTable.dropLast) (rows := [("OTHER", 0#32, 0#32)]) (post := []) rfl (by decide)
      (fun row hrow ho => h (ho ▸ hnamed row hrow)) ?_
    simp [rowMatches, mnemonicOf]

/-- Settles O4: every word is the packing of its fields; the mask of OTHER is 0. -/
theorem firstMatchingTableRowSelects : Obligations.FirstMatchingTableRowSelects := by
  refine ⟨fun w => ?_, rfl, fun w => ?_⟩
  · have h := firstRow_packFields (fieldsOf w)
    rw [packFields_fieldsOf] at h
    exact Option.map_eq_some_iff.mp h
  · simp [rowMatches]

/-- Settles O10: nine closed words, evaluated. -/
theorem specWordsDecodeAsWritten : Obligations.SpecWordsDecodeAsWritten := by
  unfold Obligations.SpecWordsDecodeAsWritten
  decide

end Sys2Proof
end

section
/-!
PROOFS. The immediate layouts of R64 to R68 on words, with their signs and ranges, and that every instruction and
every step answers a next state (R70, R93).
-/

namespace Sys2Proof.Machine

/-! ### Bits of a word -/

/-- The sign of a field that reaches the top of a word is w[31]. -/
theorem msb_extractLsb'_top (w : Word) {start len : Nat} (h : start + len = 32) (hlen : 0 < len) :
    (w.extractLsb' start len).msb = w.getLsbD 31 := by
  simp [BitVec.msb_extractLsb', BitVec.getMsbD, h, hlen]

theorem msb_append_of_ne_zero {n m : Nat} (hn : n ≠ 0) (x : BitVec n) (y : BitVec m) : (x ++ y).msb = x.msb :=
  BitVec.msb_append.trans (if_neg hn)

/-- A value followed by a zero bit and zero-extended is twice the value, never negative (R65, R66). -/
theorem toInt_setWidth_append_zero {n : Nat} (hn : n < 31) (x : BitVec n) :
    ((x ++ 0#1).setWidth 32).toInt = 2 * x.toNat := by
  have hx : x.toNat < 2 ^ n := x.isLt
  have hpow : 2 ^ n ≤ 2 ^ 30 := Nat.pow_le_pow_right (by decide) (by omega)
  have hnat : (x ++ 0#1).toNat = x.toNat * 2 := by simp [BitVec.toNat_append, Nat.shiftLeft_eq]
  rw [BitVec.toInt_setWidth, hnat, Int.bmod_eq_of_le] <;> omega

/-! ### U layout (R64) -/

theorem imm20_fieldsOf (w : Word) : (fieldsOf w).imm20 = w.extractLsb' 12 20 := by
  simp only [Fields.imm20, fieldsOf, BitVec.extractLsb'_append_extractLsb'_eq_extractLsb']

theorem toInt_immU (imm20 : BitVec 20) : (immU imm20).toInt = 4096 * imm20.toInt := BitVec.toInt_append_zero

/-- Settles O5: the immediate is 4096 times the signed value of w[31:12]. -/
theorem upperImmediateLayout : Obligations.UpperImmediateLayout := by
  refine ⟨fun w h => ?_, by decide⟩
  have hsign : w.getLsbD 31 = true ↔ (w.extractLsb' 12 20).toInt < 0 := by
    rw [← msb_extractLsb'_top w (start := 12) (len := 20) rfl (by decide), BitVec.msb_eq_toInt, decide_eq_true_iff]
  have hlo := (w.extractLsb' 12 20).le_toInt
  have hhi := (w.extractLsb' 12 20).toInt_lt
  rw [decodeRecord_imm_of_upper h, immU_fieldsOf, imm20_fieldsOf, toInt_immU, hsign]
  refine ⟨rfl, rfl, ?_, ?_, ?_, ?_⟩ <;> omega

/-! ### J layout (R65) -/

theorem decodeRecord_imm_of_jal {w : Word} (h : w.extractLsb' 0 7 = Config.opcJal) :
    (decodeRecord w).imm =
      (w.extractLsb' 31 1 ++ w.extractLsb' 12 8 ++ w.extractLsb' 20 1 ++ w.extractLsb' 21 10 ++ 0#1
        : BitVec 21).setWidth 32 := by
  simp +decide only [decodeRecord, immOf, h, if_true, if_false]
  unfold bitsAt bitAt
  ext k hk
  simp only [BitVec.getElem_or, BitVec.getElem_shiftLeft, BitVec.getElem_setWidth, BitVec.getLsbD_append,
    BitVec.getLsbD_extractLsb']
  interval_cases k <;> simp

/-- Settles O6: the immediate is twice the value of its upper twenty bits, of which w[31] is the first; the result of JAL
is the link, whatever the immediate. -/
theorem jumpImmediateLayout : Obligations.JumpImmediateLayout := by
  refine ⟨fun w h => ?_, by decide, fun rd imm imm' s => ⟨_, _, rfl, rfl, rfl⟩⟩
  have hmsb : (w.extractLsb' 31 1 ++ w.extractLsb' 12 8 ++ w.extractLsb' 20 1 ++ w.extractLsb' 21 10).msb =
      w.getLsbD 31 := by
    rw [msb_append_of_ne_zero (by decide), msb_append_of_ne_zero (by decide), msb_append_of_ne_zero (by decide),
      msb_extractLsb'_top w rfl (by decide)]
  have hlt := (w.extractLsb' 31 1 ++ w.extractLsb' 12 8 ++ w.extractLsb' 20 1 ++ w.extractLsb' 21 10).isLt
  rw [decodeRecord_imm_of_jal h, toInt_setWidth_append_zero (by decide), ← hmsb]
  refine ⟨rfl, by omega, by omega, by omega, fun htop => ?_⟩
  have hge := BitVec.toNat_ge_of_msb_true htop
  omega

/-! ### B layout (R66) -/

theorem immB_fieldsOf_eq (w : Word) :
    immB (fieldsOf w).funct7 (fieldsOf w).rd =
      (w.extractLsb' 31 1 ++ w.extractLsb' 7 1 ++ w.extractLsb' 25 6 ++ w.extractLsb' 8 4 ++ 0#1
        : BitVec 13).setWidth 32 := by
  unfold immB fieldsOf
  ext k hk
  simp only [BitVec.getElem_setWidth, BitVec.getLsbD_append, BitVec.getLsbD_extractLsb']
  interval_cases k <;> simp

/-- rd is bits 4:1 of the immediate followed by bit 11. -/
theorem immB_rd (funct7 : BitVec 7) (rd : RegIdx) :
    (immB funct7 rd).extractLsb' 1 4 ++ (immB funct7 rd).extractLsb' 11 1 = rd := by
  have hhigh : (immB funct7 rd).extractLsb' 1 4 = rd.extractLsb' 1 4 := by
    unfold immB
    ext k hk
    simp only [BitVec.getElem_extractLsb', BitVec.getLsbD_setWidth, BitVec.getLsbD_append]
    interval_cases k <;> simp
  have hlow : (immB funct7 rd).extractLsb' 11 1 = rd.extractLsb' 0 1 := by
    unfold immB
    ext k hk
    simp only [BitVec.getElem_extractLsb', BitVec.getLsbD_setWidth, BitVec.getLsbD_append]
    interval_cases k
    simp
  rw [hhigh, hlow, BitVec.extractLsb'_append_extractLsb'_eq_extractLsb' (start₂ := 1) (len₁ := 1) rfl]
  exact BitVec.extractLsb'_eq_self

/-- Settles O7: the immediate is twice the value of its upper twelve bits, of which w[31] is the first. -/
theorem branchImmediateLayout : Obligations.BranchImmediateLayout := by
  refine ⟨fun w h => ?_, by decide, by decide⟩
  have hmsb : (w.extractLsb' 31 1 ++ w.extractLsb' 7 1 ++ w.extractLsb' 25 6 ++ w.extractLsb' 8 4).msb =
      w.getLsbD 31 := by
    rw [msb_append_of_ne_zero (by decide), msb_append_of_ne_zero (by decide), msb_append_of_ne_zero (by decide),
      msb_extractLsb'_top w rfl (by decide)]
  have hlt := (w.extractLsb' 31 1 ++ w.extractLsb' 7 1 ++ w.extractLsb' 25 6 ++ w.extractLsb' 8 4).isLt
  have hrd := (immB_rd (fieldsOf w).funct7 (fieldsOf w).rd).symm
  rw [immB_fieldsOf_eq] at hrd
  rw [decodeRecord_imm_of_branch h, immB_fieldsOf_eq, toInt_setWidth_append_zero (by decide), ← hmsb]
  refine ⟨rfl, by omega, by omega, by omega, fun htop => ?_, hrd⟩
  have hge := BitVec.toNat_ge_of_msb_true htop
  omega

/-! ### I layout (R67) -/

theorem sshiftRight_20 (w : Word) : w.sshiftRight 20 = immI (w.extractLsb' 20 12) := by
  unfold immI
  ext k hk
  rw [BitVec.getElem_sshiftRight, BitVec.getElem_signExtend]
  interval_cases k <;> simp [BitVec.msb_eq_getLsbD_last]

theorem toInt_immI (imm12 : BitVec 12) : (immI imm12).toInt = imm12.toInt :=
  BitVec.toInt_signExtend_of_le (by decide)

/-- The immediate's twelve bits as funct7 and rs2. -/
theorem toInt_imm12 (f : Fields) : f.imm12.toInt = 32 * f.funct7.toInt + f.rs2.toNat := BitVec.toInt_append

/-- Settles O8: the immediate is 32 times the signed funct7 plus rs2, so funct7 is 0 exactly where it is 0 to 31. -/
theorem loadAndAluImmediateLayout : Obligations.LoadAndAluImmediateLayout := by
  refine ⟨fun w h => ?_, by decide, by decide, by decide⟩
  have hlo := (fieldsOf w).imm12.le_toInt
  have hhi := (fieldsOf w).imm12.toInt_lt
  have hparts := toInt_imm12 (fieldsOf w)
  have hrs2 := (fieldsOf w).rs2.isLt
  have hzero : (fieldsOf w).funct7 = 0#7 ↔ (fieldsOf w).funct7.toInt = 0 := by
    rw [← BitVec.toInt_inj, BitVec.toInt_zero]
  rw [decodeRecord_imm_of_iFormat h, toInt_immI, decodeRecord_funct7, decodeRecord_rs2, hzero, sshiftRight_20,
    ← imm12_fieldsOf]
  refine ⟨rfl, rfl, ?_, ?_, ?_, ?_⟩ <;> omega

/-! ### Z layout (R68) -/

theorem decodeRecord_imm_of_noLayout {w : Word}
    (h : w.extractLsb' 0 7 ∉ [Config.opcLui, Config.opcAuipc, Config.opcJal, Config.opcBranch, Config.opcLoad,
      Config.opcOpImm]) : (decodeRecord w).imm = 0#32 := by
  simp only [List.mem_cons, List.not_mem_nil, or_false, not_or] at h
  obtain ⟨hlui, hauipc, hjal, hbranch, hload, hopImm⟩ := h
  simp only [decodeRecord, immOf, hlui, hauipc, hjal, hbranch, hload, hopImm, or_self, if_false]
  split_ifs <;> rfl

/-- Settles O9: JALR and the stores take immediate 0 by the model's default parameters, the other opcodes by the rule. -/
theorem everyOtherOpcodeHasImmediateZero : Obligations.EveryOtherOpcodeHasImmediateZero :=
  ⟨fun _ => decodeRecord_imm_of_noLayout, fun _ => rfl, fun _ _ => rfl, fun a => by simp [jalrValue, aluAdd]⟩

/-! ### Every instruction answers (R70, R73, R93) -/

/-- Settles O14: an instruction ends by one of its three effects, each a next state; so does every step. -/
theorem everyInstructionAnswersNext : Obligations.EveryInstructionAnswersNext :=
  ⟨fun i s => (exec_effect i s).imp fun _ h => h.1, step_total⟩

end Sys2Proof.Machine
end

section
/-!
PROOFS. The statements about the step and its stages (spec/40_step_and_stages.md): the halt check and the fetch, the spec's
one function over the Decoded record, writeback, and how auto-run ends.
-/

namespace Sys2Proof.Machine

/-! ### Fetching at a word of the image (R47, R48) -/

/-- At word `j` the fetch finds word `j` of the image, or nothing where the image has no such word. -/
theorem State.fetch_of_pc {s : State} {j : Nat} (hpc : s.pc = 4 * j) : s.fetch = s.imem[j]? := by
  simp [State.fetch, fetchAt_eq, hpc]

/-! ### What a step call emits (R204, R205, R222) -/

theorem notificationsOf_of_not_running {s : State} (h : s.runState ≠ .running) (t : State) : notificationsOf s t = [] := by
  cases hs : s.runState with
  | running => exact absurd hs h
  | halted | faulted => simp [notificationsOf, hs]

theorem notificationsOf_halt {s : State} (h : s.runState = .running) : notificationsOf s s.halt = [.completion] := by
  simp [notificationsOf, h]

theorem notificationsOf_takeFault (s : State) (a : Word) : notificationsOf s (takeFault a s) = [] := by
  cases hs : s.runState <;> simp [notificationsOf, hs]

theorem notificationsOf_of_running {s t : State} {p : Snapshot} (hs : s.runState = .running) (ht : t.runState = .running)
    (hp : t.snapshot = some p) : notificationsOf s t = [.perStep p] := by
  simp [notificationsOf, hs, ht, hp]

/-- The step call that finds no word halts, says so, and emits completion (R91, R202, R205). -/
theorem hostStep_of_unmapped {s : State} (h : s.runState = .running) (hf : s.fetch = none) :
    hostStep s = { core := s.halt, reply := .halted, notes := [.completion] } := by
  rw [hostStep_of_step (step_of_unmapped h hf), notificationsOf_halt h]
  rfl

/-! ### The halt check and the fetch (R91) -/

/-- Settles O11: the step of a Running core with a word at pc is exec of what the word decodes to. -/
theorem stepRunsTheFetchedInstruction : Obligations.StepRunsTheFetchedInstruction := by
  rintro s w _ ⟨hr, hf⟩ rfl
  exact step_of_fetch hr hf

/-- Settles O12: a terminal state is left as it is; word N of an image of N words, and every word of the empty image, is
not mapped. -/
theorem haltCheckAndFetch : Obligations.HaltCheckAndFetch := by
  intro s
  refine ⟨fun hr => ?_, fun hr hf => ?_, fun hpc => ?_, fun hempty => ?_, fun w => step_of_fetch⟩
  · obtain ⟨t, ht⟩ := step_total s
    obtain rfl := step_eq_of_not_running ht hr
    rw [hostStep_of_step ht]
    exact ⟨ht, notificationsOf_of_not_running hr _⟩
  · rw [hostStep_of_unmapped hr hf]
    exact ⟨step_of_unmapped hr hf, rfl⟩
  · rw [State.fetch_of_pc hpc]
    exact List.getElem?_eq_none (le_refl _)
  · simp [State.fetch, fetchAt_eq, hempty]

/-! ### The step as the spec's one function (R104) -/

theorem ne_store_of_load {o : BitVec 7} (h : o = Config.opcLoad) : o ≠ Config.opcStore := by
  rw [h]; decide

/-- Publishing and advancing is how a word's meaning completes, with the record's last-written index, and the per-step
notification is what it emits (R100, R101, D12). -/
theorem publishStage_eq {w : Word} {s u : State} {written : Option RegIdx} (hs : s.runState = .running)
    (hu : u.runState = .running)
    (hw : written = if (decodeRecord w).opcode = Config.opcStore then none else some (decodeRecord w).rd) :
    publishStage (decodeRecord w) w u =
      (complete (decode w) written u, notificationsOf s (complete (decode w) written u)) := by
  rw [notificationsOf_of_running (t := complete (decode w) written u) hs hu (complete_snapshot ..), encode_decode, hw]
  simp [publishStage, complete, Config.pcStep]

/-- The stages after execute do what the word's meaning does, effect by effect (R98, R99, R102). -/
theorem WordEffect.finishStage_eq {w : Word} {s t : State} (h : WordEffect w s t) (hr : s.runState = .running) :
    finishStage (decodeRecord w) w (executeStage (decodeRecord w) s) s = (t, notificationsOf s t) := by
  cases h with
  | loaded hop ha =>
    rw [finishStage, if_pos hop]
    exact (if_pos ((inRange_iff _).mp ha)).trans (publishStage_eq hr hr (if_neg (ne_store_of_load hop)).symm)
  | stored hop ha =>
    rw [finishStage, if_neg fun hl => ne_store_of_load hl hop, if_pos hop]
    exact (if_pos ((inRange_iff _).mp ha)).trans (publishStage_eq hr hr (if_pos hop).symm)
  | computed hnl hns =>
    rw [finishStage, if_neg hnl, if_neg hns]
    exact publishStage_eq hr hr (if_neg hns).symm
  | faulted hop ha =>
    have hout : ¬InDataSpace (executeStage (decodeRecord w) s) := fun h => by
      simp [inRange_of_inDataSpace h] at ha
    rw [notificationsOf_takeFault, finishStage]
    by_cases hl : (decodeRecord w).opcode = Config.opcLoad
    · rw [if_pos hl]
      exact if_neg hout
    · rw [if_neg hl, if_pos (hop.resolve_left hl)]
      exact if_neg hout

/-- The spec's function gives the state and the notifications of the step (R104). -/
theorem StepEffect.referenceStep_eq {s t : State} (h : StepEffect s t) : referenceStep s = (t, notificationsOf s t) := by
  cases h with
  | terminal hr =>
    rw [notificationsOf_of_not_running hr]
    cases hs : s.runState with
    | running => exact absurd hs hr
    | halted | faulted => simp [referenceStep, hs]
  | halts hr hf =>
    rw [notificationsOf_halt hr]
    simp [referenceStep, hr, hf, State.halt]
  | executes w hw he =>
    rw [← he.finishStage_eq hw.1]
    simp [referenceStep, hw.1, hw.2]

/-- Settles O13: the step has one of the effects of `StepEffect`, and the spec's function gives each. -/
theorem stepRefinesTheReferenceFunction : Obligations.StepRefinesTheReferenceFunction := by
  intro s
  obtain ⟨t, ht⟩ := step_total s
  rw [hostStep_of_step ht, (stepEffect_of_step ht).referenceStep_eq]
  exact ⟨ht, rfl, rfl⟩

/-! ### Writeback (R99) -/

/-- Settles O21: a completed word wrote its x[rd], with the cell for a load and the result otherwise, or it is a store and
wrote no register. -/
theorem writebackWritesExactlyRd : Obligations.WritebackWritesExactlyRd := by
  intro s t w hw h hrun
  cases wordEffect_of_step hw h with
  | loaded hop =>
    exact ⟨fun r hr => State.setReg_reg_ne _ _ _ _ (hr.resolve_left (ne_store_of_load hop)),
      fun _ => (State.setReg_reg_same ..).trans (if_pos hop).symm⟩
  | stored hop => exact ⟨fun _ _ => rfl, fun hns => absurd hop hns⟩
  | faulted => simp at hrun
  | computed hnl hns =>
    exact ⟨fun r hr => State.setReg_reg_ne _ _ _ _ (hr.resolve_left hns),
      fun _ => (State.setReg_reg_same ..).trans (if_neg hnl).symm⟩

/-! ### Every run ends (R105, R211, R248) -/

/-- A word completes and publishes a record with its own pc and word, or it takes the fault and does nothing else. -/
theorem WordEffect.published_or_faulted {w : Word} {s t : State} (h : WordEffect w s t) :
    (t.runState = s.runState ∧ t.pc = s.pc + 4 ∧ ∃ p, t.snapshot = some p ∧ p.pc = s.pc ∧ p.word = w) ∨
      ∃ a, t = takeFault a s := by
  cases h with
  | loaded | stored | computed => exact .inl ⟨rfl, rfl, _, rfl, rfl, encode_decode w⟩
  | faulted => exact .inr ⟨_, rfl⟩

/-- The step call on a core about to run a word executes it and emits its record, or reports the fault and emits nothing
(R202, R204, R222). -/
theorem hostStep_of_executing {s : State} {w : Word} (hw : s.executing w) :
    (∃ t p, hostStep s = { core := t, reply := .executed, notes := [.perStep p] } ∧ p.pc = s.pc ∧ p.word = w ∧
        t.runState = .running ∧ t.pc = s.pc + 4 ∧ t.imem = s.imem) ∨
      ∃ a, hostStep s =
        { core := takeFault a s, reply := .faulted (.memIndexOutOfRange a), notes := [] } := by
  obtain ⟨t, -, he⟩ := exec_decode_wordEffect w s
  have hstep := hostStep_of_step (step_of_wordEffect hw he)
  rcases he.published_or_faulted with ⟨hrun, hpc, p, hp, hppc, hpw⟩ | ⟨a, rfl⟩
  · rw [hw.1] at hrun
    rw [notificationsOf_of_running hw.1 hrun hp] at hstep
    exact .inl ⟨t, p, by simpa [replyOf, hrun] using hstep, hppc, hpw, hrun, hpc, he.imem_eq⟩
  · rw [notificationsOf_takeFault] at hstep
    exact .inr ⟨a, hstep⟩

theorem autoRun_of_executed {s : State} (h : (hostStep s).reply = .executed) (k : Nat) :
    autoRun (k + 1) s =
      ((autoRun k (hostStep s).core).1, (hostStep s).notes ++ (autoRun k (hostStep s).core).2) :=
  if_pos h

theorem autoRun_of_not_executed {s : State} (h : (hostStep s).reply ≠ .executed) (k : Nat) :
    autoRun (k + 1) s = ((hostStep s).core, (hostStep s).notes) :=
  if_neg h

/-- The records of the `n` words from word `j` on, in order, each with the address of its word. -/
def RecordsFrom (imem : List Word) (j n : Nat) (steps : List Snapshot) : Prop :=
  steps.map (fun p => (p.pc, some p.word)) = (List.range' j n).map (fun k => (4 * k, imem[k]?))

theorem RecordsFrom.nil (imem : List Word) (j : Nat) : RecordsFrom imem j 0 [] := rfl

theorem RecordsFrom.cons {imem : List Word} {j n : Nat} {p : Snapshot} {steps : List Snapshot} (hpc : p.pc = 4 * j)
    (hw : imem[j]? = some p.word) (h : RecordsFrom imem (j + 1) n steps) : RecordsFrom imem j (n + 1) (p :: steps) := by
  unfold RecordsFrom at h ⊢
  rw [List.map_cons, h, List.range'_succ, List.map_cons, hpc, hw]

/-- A run from word `j` that ended Halted at the end of the image, after every word from `j` on and one completion. -/
def EndedHalted (imem : List Word) (j : Nat) (r : State × List Notification) : Prop :=
  r.1.completed ∧ r.1.pc = 4 * imem.length ∧
    ∃ steps, RecordsFrom imem j (imem.length - j) steps ∧ r.2 = steps.map .perStep ++ [.completion]

/-- A run from word `j` that ended Faulted at some word `k`, after every word before it and with no completion. -/
def EndedFaulted (imem : List Word) (j : Nat) (r : State × List Notification) : Prop :=
  ∃ a k, r.1.runState = .faulted a ∧ j ≤ k ∧ k < imem.length ∧ r.1.pc = 4 * k ∧
    ∃ steps, RecordsFrom imem j (k - j) steps ∧ r.2 = steps.map .perStep

/-- One executed word in front of a run that ended Halted. -/
theorem EndedHalted.cons {imem : List Word} {j : Nat} {p : Snapshot} {r : State × List Notification}
    (hpc : p.pc = 4 * j) (hw : imem[j]? = some p.word) (h : EndedHalted imem (j + 1) r) :
    EndedHalted imem j (r.1, .perStep p :: r.2) := by
  obtain ⟨hhalt, hend, steps, hsteps, hnotes⟩ := h
  have hj : j < imem.length := (List.getElem?_eq_some_iff.mp hw).1
  have hcount : imem.length - j = imem.length - (j + 1) + 1 := by omega
  exact ⟨hhalt, hend, p :: steps, hcount ▸ hsteps.cons hpc hw, by simp [hnotes]⟩

/-- One executed word in front of a run that ended Faulted. -/
theorem EndedFaulted.cons {imem : List Word} {j : Nat} {p : Snapshot} {r : State × List Notification}
    (hpc : p.pc = 4 * j) (hw : imem[j]? = some p.word) (h : EndedFaulted imem (j + 1) r) :
    EndedFaulted imem j (r.1, .perStep p :: r.2) := by
  obtain ⟨a, k, hfault, hjk, hk, hend, steps, hsteps, hnotes⟩ := h
  have hcount : k - j = k - (j + 1) + 1 := by omega
  exact ⟨a, k, hfault, by omega, hk, hend, p :: steps, hcount ▸ hsteps.cons hpc hw, by simp [hnotes]⟩

/-- Auto-run from word `j`, with `n` words still to come, ends within `n + 1` steps. -/
theorem autoRun_ends (imem : List Word) (n : Nat) {s : State} {j : Nat} (hr : s.runState = .running)
    (himem : s.imem = imem) (hpc : s.pc = 4 * j) (hn : imem.length = j + n) :
    EndedHalted imem j (autoRun (n + 1) s) ∨ EndedFaulted imem j (autoRun (n + 1) s) := by
  induction n generalizing s j with
  | zero =>
    have hf : s.fetch = none := by
      rw [State.fetch_of_pc hpc, himem]
      exact List.getElem?_eq_none (by omega)
    have hstep := hostStep_of_unmapped hr hf
    have hnone : imem.length - j = 0 := by omega
    rw [autoRun_of_not_executed (by simp [hstep]), hstep]
    exact .inl ⟨rfl, hpc.trans (by omega), [], hnone ▸ RecordsFrom.nil imem j, rfl⟩
  | succ n ih =>
    have hj : j < imem.length := by omega
    have hword : imem[j]? = some imem[j] := List.getElem?_eq_getElem hj
    have hw : s.executing imem[j] := ⟨hr, by rw [State.fetch_of_pc hpc, himem, hword]⟩
    rcases hostStep_of_executing hw with ⟨t, p, hstep, hppc, hpw, htr, htpc, htimem⟩ | ⟨a, hstep⟩
    · rw [hpc] at hppc htpc
      rw [← hpw] at hword
      rw [autoRun_of_executed (by rw [hstep]), hstep]
      exact (ih htr (htimem.trans himem) htpc (by omega)).imp (.cons hppc hword) (.cons hppc hword)
    · rw [autoRun_of_not_executed (by simp [hstep]), hstep]
      exact .inr ⟨a, j, rfl, le_refl j, hj, hpc, [], (Nat.sub_self j).symm ▸ RecordsFrom.nil imem j, rfl⟩

/-- Settles O26: by induction on the words that are still to come. -/
theorem everyRunEndsHaltedOrFaulted : Obligations.EveryRunEndsHaltedOrFaulted := by
  intro s j hr hpc hj
  exact autoRun_ends s.imem (s.imem.length - j) hr rfl hpc (by omega)

end Sys2Proof.Machine
end

section
/-!
PROOFS. The statements about the upper-immediate and jump-and-link instructions (spec/41_upper_and_jumps.md): each is one
writeback, so its frame is that of `writes_of_eq`; what is left is the value.
-/

namespace Sys2Proof.Machine

/-! ### The results of R111 to R113 as the statements write them -/

/-- An instruction that writes x[rd] is known at whatever state it answers, since it answers one only. -/
theorem Writes.wroteRegister {i : Instr} {s t : State} {rd : RegIdx} {v : Word} (h : Writes i s rd v)
    (ht : exec i s = .next t) : WroteRegister i s t rd v := by
  obtain ⟨u, hu, hwrote⟩ := h
  cases hu.symm.trans ht
  exact hwrote

/-- The immediate of a JALR word adds nothing under the spec's default reading (D2, R113). -/
theorem jalrValue_immJalr (a : Word) (imm12 : BitVec 12) : jalrValue a (immJalr imm12) = a &&& 0xFFFFFFFE#32 :=
  congrArg (· &&& 0xFFFFFFFE#32) (BitVec.add_zero a)

/-- Clearing bit 0 is shifting it out and a zero in (R113). -/
theorem and_clearBit0_eq_shift (a : Word) : a &&& 0xFFFFFFFE#32 = a >>> 1 <<< 1 := by
  ext k hk
  simp only [BitVec.getElem_and, BitVec.getElem_shiftLeft]
  interval_cases k <;> simp

/-- Clearing bit 0 rounds the unsigned value down to an even one (R113). -/
theorem toNat_and_clearBit0 (a : Word) : (a &&& 0xFFFFFFFE#32).toNat = a.toNat - a.toNat % 2 := by
  have hlt : a.toNat < 2 ^ 32 := a.isLt
  rw [and_clearBit0_eq_shift, BitVec.toNat_shiftLeft, BitVec.toNat_ushiftRight, Nat.shiftLeft_eq,
    Nat.shiftRight_eq_div_pow]
  omega

/-! ### The four instructions -/

/-- Settles O27: the value is the U immediate, which is the bits followed by twelve zeros. -/
theorem luiWritesItsImmediate : Obligations.LuiWritesItsImmediate :=
  fun _ _ _ => ⟨packFields_fieldsHi .., writes_of_eq rfl⟩

/-- Settles O28: the sum with pc wraps. -/
theorem auipcAddsPc : Obligations.AuipcAddsPc := by
  intro rd imm20 s
  refine ⟨packFields_fieldsHi .., ?_⟩
  rw [← pcPlus_eq]
  exact writes_of_eq rfl

/-- Settles O29: the link and the new pc are the same sum. -/
theorem jalWritesTheLink : Obligations.JalWritesTheLink := by
  intro rd imm20 s
  have hlink : Writes (.jal rd imm20) s rd (wrap (s.pc + 4)) := by
    rw [← linkValue_eq]
    exact writes_of_eq rfl
  refine ⟨packFields_fieldsHi .., hlink, fun t ht => ?_⟩
  obtain ⟨hreg, -, -, -, -, hpc, -⟩ := hlink.wroteRegister ht
  rw [hreg, hpc, Nat.cast_add, Nat.cast_ofNat]

/-- Settles O30: the immediate is 0, so the value is x[rs1], read before the writeback, with bit 0 cleared. -/
theorem jalrWritesTheEvenTarget : Obligations.JalrWritesTheEvenTarget := by
  intro rd rs1 funct3 imm12 s
  refine ⟨packFields_fieldsI .., ?_, toNat_and_clearBit0 _⟩
  rw [← jalrValue_immJalr _ imm12]
  exact writes_of_eq rfl

end Sys2Proof.Machine
end

section
/-!
PROOFS. The statements about the branch class (spec/42_branches.md): each is one writeback, so its frame is that of
`writes_of_eq`; what is left is the immediate of R66 as a number and the condition that selects it.
-/

namespace Sys2Proof.Machine

/-! ### The branch result as the statements write it -/

/-- Appending is adding the high part at its place value. -/
theorem toNat_append_eq_mul_add {n m : Nat} (x : BitVec n) (y : BitVec m) :
    (x ++ y).toNat = x.toNat * 2 ^ m + y.toNat := by
  rw [BitVec.toNat_append, ← Nat.shiftLeft_add_eq_or_of_lt y.isLt, Nat.shiftLeft_eq]

/-- The B immediate is the number that R66 makes of its four pieces. -/
theorem immB_eq_branchImm (funct7 : BitVec 7) (rd : RegIdx) : immB funct7 rd = branchImm funct7 rd := by
  have hbit12 : funct7.toNat / 64 % 2 = funct7.toNat / 64 := Nat.mod_eq_of_lt (Nat.div_lt_of_lt_mul funct7.isLt)
  have hbits4to1 : rd.toNat / 2 % 16 = rd.toNat / 2 := Nat.mod_eq_of_lt (Nat.div_lt_of_lt_mul rd.isLt)
  rw [immB, branchImm, ← BitVec.ofNat_toNat]
  congr 1
  simp only [toNat_append_eq_mul_add, BitVec.extractLsb'_toNat, BitVec.toNat_ofNat, Nat.shiftRight_eq_div_pow,
    Nat.reducePow, hbit12, hbits4to1]
  omega

/-- A branch whose comparison decides `P` writes the immediate if `P`, else 0 (R94). -/
theorem writes_of_branchResult {i : Instr} {s : State} {rd : RegIdx} {funct7 : BitVec 7} {taken : Bool} {P : Prop}
    [Decidable P] (hP : taken = true ↔ P)
    (h : exec i s = writeResult i rd (branchResult taken (immB funct7 rd)) s) :
    Writes i s rd (if P then branchImm funct7 rd else 0#32) := by
  have hv : branchResult taken (immB funct7 rd) = if P then branchImm funct7 rd else 0#32 := by
    rw [branchResult, immB_eq_branchImm]
    exact if_congr hP rfl rfl
  exact writes_of_eq (hv ▸ h)

/-! ### The eight instructions -/

/-- Settles O32: the comparison is of all 32 bits. -/
theorem equalityBranchesWriteImmediateOrZero : Obligations.EqualityBranchesWriteImmediateOrZero :=
  fun _ _ _ _ _ =>
    ⟨packFields_fieldsR .., writes_of_branchResult beq_iff_eq rfl,
      packFields_fieldsR .., writes_of_branchResult bne_iff_ne rfl⟩

/-- Settles O33: the comparison is of the signed values; "greater or equal" is "less or equal" the other way round. -/
theorem signedBranchesWriteImmediateOrZero : Obligations.SignedBranchesWriteImmediateOrZero :=
  fun _ _ _ _ _ =>
    ⟨packFields_fieldsR .., writes_of_branchResult decide_eq_true_iff rfl,
      packFields_fieldsR .., writes_of_branchResult decide_eq_true_iff rfl⟩

/-- Settles O34: the condition of each is the constant false, so the value written is 0. -/
theorem unsupportedBranchesWriteZero : Obligations.UnsupportedBranchesWriteZero :=
  fun _ _ _ _ _ =>
    ⟨packFields_fieldsR .., writes_of_eq rfl, packFields_fieldsR .., writes_of_eq rfl,
      packFields_fieldsR .., writes_of_eq rfl, packFields_fieldsR .., writes_of_eq rfl⟩

end Sys2Proof.Machine
end

section
/-!
PROOFS. The statements about the immediate-ALU class (spec/43_alu_immediate.md): each is one writeback, so its frame is that
of `writes_of_eq`; what is left is the ALU routine's value by the integer laws of R93 and R95 and the value of the immediate.
-/

namespace Sys2Proof.Machine

/-! ### The immediate of the class as the statements write it -/

/-- The I immediate of an ADDI word is never negative (R67, R130). -/
theorem toInt_immI5 (imm5 : BitVec 5) : (immI5 imm5).toInt = imm5.toNat := by
  have hlt : imm5.toNat < 2 ^ 5 := imm5.isLt
  rw [immI5, BitVec.toInt_setWidth, Int.bmod_eq_of_le] <;> omega

theorem immI_eq_wrap (imm12 : BitVec 12) : immI imm12 = wrap imm12.toInt := rfl

/-- The bits that an I-format word has at funct7 are zero exactly where the immediate is 0 to 31 (R67, R72). -/
theorem immFunct7_eq_zero_iff (imm12 : BitVec 12) : immFunct7 imm12 = 0#7 ↔ 0 ≤ imm12.toInt ∧ imm12.toInt < 32 := by
  have hparts : imm12.toInt = 32 * (immFunct7 imm12).toInt + (imm12.extractLsb' 0 5).toNat :=
    (congrArg BitVec.toInt (imm12_parts imm12)).symm.trans BitVec.toInt_append
  have hlow := (imm12.extractLsb' 0 5).isLt
  rw [← BitVec.toInt_inj, BitVec.toInt_zero]
  omega

/-- ADDI.NZ is the words whose immediate is not that of an ADDI (R131). -/
theorem addiNz_wf_iff (rd rs1 : RegIdx) (imm12 : BitVec 12) :
    (Instr.addiNz rd rs1 imm12).wf = true ↔ imm12.toInt < 0 ∨ 32 ≤ imm12.toInt := by
  have hnz : (Instr.addiNz rd rs1 imm12).wf = true ↔ immFunct7 imm12 ≠ 0#7 := bne_iff_ne
  rw [hnz, Ne, immFunct7_eq_zero_iff]
  omega

/-- An instruction whose meaning writes the result `v` writes every value that `v` is shown equal to. -/
theorem writes_of_result {i : Instr} {s : State} {rd : RegIdx} {v value : Word}
    (h : exec i s = writeResult i rd v s) (hv : v = value) : Writes i s rd value :=
  writes_of_eq (hv ▸ h)

/-! ### The ten instructions -/

/-- Settles O35: the sum and the difference are those of the signed values, wrapped; the five bits of ADDI are no sign. -/
theorem addiAddsSmallAndSubtractsOther : Obligations.AddiAddsSmallAndSubtractsOther := by
  refine fun rd rs1 s => ⟨fun imm5 => ⟨packFields_fieldsR .., ?_⟩,
    fun imm12 => ⟨packFields_fieldsI .., addiNz_wf_iff .., ?_⟩⟩
  · rw [← toInt_immI5]
    exact writes_of_result rfl (aluAdd_eq ..)
  · rw [← toInt_immI]
    exact writes_of_result rfl (aluSub_eq ..)

/-- Settles O36: the shift amount is the rs2 field; only the right shifts are told apart, by funct7. -/
theorem immediateShiftsShiftByTheField : Obligations.ImmediateShiftsShiftByTheField :=
  fun _ _ _ _ _ =>
    ⟨packFields_fieldsR .., writes_of_result rfl (aluShl_eq ..),
      packFields_fieldsR .., writes_of_result rfl (aluShr_eq ..),
      packFields_fieldsR .., bne_iff_ne, writes_of_result rfl (aluSar_eq ..)⟩

/-- Settles O37: the comparison is with the signed immediate; SLTIU is the ALU table's "other" row. -/
theorem sltiComparesSignedAndSltiuWritesZero : Obligations.SltiComparesSignedAndSltiuWritesZero := by
  refine fun rd rs1 imm12 s => ⟨packFields_fieldsI .., ?_, packFields_fieldsI .., writes_of_eq rfl⟩
  rw [← toInt_immI]
  exact writes_of_result rfl (aluSlt_eq ..)

/-- Settles O38: the Word of the signed immediate is its sign extension. -/
theorem immediateLogicUsesTheSignExtendedImmediate : Obligations.ImmediateLogicUsesTheSignExtendedImmediate := by
  intro rd rs1 imm12 s
  rw [← immI_eq_wrap]
  exact ⟨packFields_fieldsI .., writes_of_eq rfl, packFields_fieldsI .., writes_of_eq rfl,
    packFields_fieldsI .., writes_of_eq rfl⟩

end Sys2Proof.Machine
end

section
/-!
PROOFS. The statements about the register-ALU class (spec/44_alu_register.md): each is one writeback, so its frame is that of
`writes_of_eq`; what is left is the ALU routine's value at the class's immediate, which is 0 (D20, R97).
-/

namespace Sys2Proof.Machine

/-! ### The slots of R96 at the immediate 0 -/

theorem aluAdd_immZ (a : Word) : aluAdd a immZ = a := BitVec.add_zero a

theorem aluSub_immZ (a : Word) : aluSub a immZ = a := BitVec.sub_zero a

theorem aluXor_immZ (a : Word) : aluXor a immZ = a := BitVec.xor_zero

theorem aluOr_immZ (a : Word) : aluOr a immZ = a := BitVec.or_zero

theorem aluAnd_immZ (a : Word) : aluAnd a immZ = 0#32 := BitVec.and_zero

/-- A Word is negative exactly from 2^31 on, where bit 31 is set, so the comparison with 0 is that bit (R148). -/
theorem aluSlt_immZ (a : Word) : aluSlt a immZ = (a.extractLsb' 31 1).setWidth 32 := by
  have hsign : a.toInt < immZ.toInt ↔ 2 ^ 32 ≤ 2 * a.toNat := BitVec.toInt_neg_iff
  have hlt : a.toNat < 2 ^ 32 := a.isLt
  have hbit31 : ((a.extractLsb' 31 1).setWidth 32).toNat = a.toNat / 2 ^ 31 := by
    rw [BitVec.toNat_setWidth, BitVec.extractLsb'_toNat, Nat.shiftRight_eq_div_pow]
    omega
  apply BitVec.eq_of_toNat_eq
  rw [aluSlt_eq, if_congr hsign rfl rfl, hbit31]
  split
  case isTrue => rw [BitVec.toNat_ofNat]; omega
  case isFalse => rw [BitVec.toNat_ofNat]; omega

/-! ### The ten instructions -/

/-- Settles O39: adding, subtracting and combining with 0 leaves x[rs1] as it is. -/
theorem registerAluCopiesRs1 : Obligations.RegisterAluCopiesRs1 :=
  fun _ _ _ _ _ =>
    ⟨packFields_fieldsR .., writes_of_result rfl (aluAdd_immZ _),
      packFields_fieldsR .., bne_iff_ne, writes_of_result rfl (aluSub_immZ _),
      packFields_fieldsR .., writes_of_result rfl (aluXor_immZ _),
      packFields_fieldsR .., writes_of_result rfl (aluOr_immZ _)⟩

/-- Settles O40: the shift amount is the rs2 field itself; only the right shifts are told apart, by funct7. -/
theorem registerShiftsShiftByTheIndex : Obligations.RegisterShiftsShiftByTheIndex :=
  fun _ _ _ _ _ =>
    ⟨packFields_fieldsR .., writes_of_result rfl (aluShl_eq ..),
      packFields_fieldsR .., writes_of_result rfl (aluShr_eq ..),
      packFields_fieldsR .., bne_iff_ne, writes_of_result rfl (aluSar_eq ..)⟩

/-- Settles O41: the comparison with 0 is the sign bit; SLTU is the ALU table's "other" row, and AND combines with 0. -/
theorem sltWritesTheSignAndSltuAndAndZero : Obligations.SltWritesTheSignAndSltuAndAndZero :=
  fun _ _ _ _ _ =>
    ⟨packFields_fieldsR .., writes_of_result rfl (aluSlt_immZ _),
      packFields_fieldsR .., writes_of_eq rfl,
      packFields_fieldsR .., writes_of_result rfl (aluAnd_immZ _)⟩

end Sys2Proof.Machine
end

section
/-!
PROOFS. The statements about the load class (spec/45_loads.md): each is one load, so what it changes and leaves alone is that
of `loadsFrom_of_eq`; what is left is the address by the integer laws of R93 and R95, and where it can or cannot leave the
data space.
-/

namespace Sys2Proof.Machine

/-! ### The address of a load as the statements write it -/

/-- A meaning that loads from the address `a` loads from every address that `a` is shown equal to. -/
theorem loadsFrom_of_address {i : Instr} {s : State} {rd : RegIdx} {a address : Word}
    (h : exec i s = loadCell i rd a s) (ha : a = address) : LoadsFrom i s rd address :=
  loadsFrom_of_eq (ha ▸ h)

/-- LB.NZ is the words whose immediate is not that of an LB; the zero test is the one of ADDI.NZ (R72, R161). -/
theorem lbNz_wf_iff (rd rs1 : RegIdx) (imm12 : BitVec 12) :
    (Instr.lbNz rd rs1 imm12).wf = true ↔ imm12.toInt < 0 ∨ 32 ≤ imm12.toInt :=
  addiNz_wf_iff rd rs1 imm12

/-! ### Which addresses are in the data space (R42) -/

/-- A Word read as signed is in the data space exactly where it is when read as unsigned (D5). -/
theorem inDataSpace_iff_toNat_lt (a : Word) : InDataSpace a ↔ a.toNat < 1024 := by
  have hlt : a.toNat < 2 ^ 32 := a.isLt
  rw [InDataSpace, BitVec.toInt_eq_toNat_cond]
  split <;> omega

/-- A mask that is itself a cell index keeps every address in the data space (R169). -/
theorem inDataSpace_and_right {b : Word} (hb : InDataSpace b) (a : Word) : InDataSpace (a &&& b) := by
  rw [inDataSpace_iff_toNat_lt] at hb ⊢
  exact lt_of_le_of_lt Nat.and_le_right hb

/-- The arithmetic right shift of a negative base is negative, so it names no cell (R95, R167). -/
theorem not_inDataSpace_of_neg_shifted {a : Word} (ha : a.toInt < 0) (n : RegIdx) :
    ¬InDataSpace (wrap (a.toInt / 2 ^ n.toNat)) := by
  have hneg : a.toInt / 2 ^ n.toNat < 0 := Int.ediv_neg_of_neg_of_pos ha (by positivity)
  have hshift : (aluSar a n).toInt = a.toInt / 2 ^ n.toNat :=
    BitVec.toInt_sshiftRight.trans (Int.shiftRight_eq_div_pow ..)
  rw [← aluSar_eq, InDataSpace, hshift]
  omega

/-! ### Loads that cannot fault (R163, R164) -/

/-- A load that forms an address in the data space always completes. -/
theorem LoadsFrom.writes {i : Instr} {s : State} {rd : RegIdx} {a : Word} (h : LoadsFrom i s rd a) (ha : InDataSpace a) :
    Writes i s rd (Memory.read s.dmem a.toInt.toNat) :=
  h.1 ha

/-- A load whose address is a comparison reads cell 1 or cell 0 (R163, C1). -/
theorem writes_of_comparison {i : Instr} {s : State} {rd : RegIdx} {P : Prop} [Decidable P]
    (h : LoadsFrom i s rd (if P then 1#32 else 0#32)) : Writes i s rd (Memory.read s.dmem (if P then 1 else 0)) := by
  by_cases hP : P
  · rw [if_pos hP] at h ⊢
    exact h.writes (by decide)
  · rw [if_neg hP] at h ⊢
    exact h.writes (by decide)

/-! ### The ten instructions -/

/-- Settles O42: the address is the sum or the difference of the signed values, wrapped; the five bits of LB are no sign. -/
theorem lbLoadsSumOrDifference : Obligations.LbLoadsSumOrDifference := by
  refine fun rd rs1 s => ⟨fun imm5 => ⟨packFields_fieldsR .., ?_⟩,
    fun imm12 => ⟨packFields_fieldsI .., lbNz_wf_iff .., ?_⟩⟩
  · rw [← toInt_immI5]
    exact loadsFrom_of_address rfl (aluAdd_eq ..)
  · rw [← toInt_immI]
    exact loadsFrom_of_address rfl (aluSub_eq ..)

/-- Settles O43: the shift amount is the rs2 field; only the right shifts are told apart, by funct7. -/
theorem shiftLoadsFromTheShiftedBase : Obligations.ShiftLoadsFromTheShiftedBase :=
  fun _ _ shamt _ _ =>
    ⟨packFields_fieldsR .., loadsFrom_of_address rfl (aluShl_eq ..),
      packFields_fieldsR .., loadsFrom_of_address rfl (aluShr_eq ..),
      packFields_fieldsR .., bne_iff_ne, loadsFrom_of_address rfl (aluSar_eq ..),
      fun hneg => not_inDataSpace_of_neg_shifted hneg shamt⟩

/-- Settles O44: the address is the outcome of a signed comparison, or the ALU table's "other" row. -/
theorem lwAndLoadF3ReachOnlyCellsZeroAndOne : Obligations.LwAndLoadF3ReachOnlyCellsZeroAndOne := by
  intro rd rs1 imm12 s
  refine ⟨packFields_fieldsI .., ?_, packFields_fieldsI .., ?_⟩
  · rw [← toInt_immI]
    exact writes_of_comparison (loadsFrom_of_address rfl (aluSlt_eq ..))
  · have hzero : LoadsFrom (.loadF3 rd rs1 imm12) s rd 0#32 := loadsFrom_of_eq rfl
    exact hzero.writes (by decide)

/-- Settles O45: the Word of the signed immediate is its sign extension, and an immediate of 0 to 1023 masks to a cell
index. -/
theorem logicLoadsFromTheCombinedAddress : Obligations.LogicLoadsFromTheCombinedAddress := by
  intro rd rs1 imm12 s
  rw [← immI_eq_wrap]
  refine ⟨packFields_fieldsI .., loadsFrom_of_eq rfl, packFields_fieldsI .., loadsFrom_of_eq rfl,
    packFields_fieldsI .., loadsFrom_of_eq rfl, fun hlo hhi => ?_⟩
  rw [← toInt_immI] at hlo hhi
  exact inDataSpace_and_right ⟨hlo, Int.lt_add_one_of_le hhi⟩ _

end Sys2Proof.Machine
end

section
/-!
PROOFS. The statements about the store class (spec/46_stores.md): each is one store, so what it changes and leaves alone is
that of `storesTo_of_eq`; what is left is the address, by the integer laws of R93 and R95 for the shifts and otherwise at the
class's immediate, which is 0 (D20), and where it can or cannot leave the data space.
-/

namespace Sys2Proof.Machine

/-! ### The address of a store as the statements write it -/

/-- The offset bits of a store word are no immediate (R68, D20). -/
theorem immStore_eq_immZ (funct7 : BitVec 7) (rd : RegIdx) : immStore funct7 rd = immZ := rfl

/-- A meaning that stores to the address `a` stores to every address that `a` is shown equal to. -/
theorem storesTo_of_address {i : Instr} {s : State} {rs2 : RegIdx} {a address : Word}
    (h : exec i s = storeCell i rs2 a s) (ha : a = address) : StoresTo i s rs2 address :=
  storesTo_of_eq (ha ▸ h)

/-- A store that takes its address from a slot of the ALU routine stores to that slot's value at the immediate 0. -/
theorem storesTo_of_slot {i : Instr} {s : State} {rs1 rs2 rd : RegIdx} {funct7 : BitVec 7} {slot : Word → Word → Word}
    {address : Word} (h : exec i s = storeCell i rs2 (slot (s.reg rs1) (immStore funct7 rd)) s)
    (haddr : slot (s.reg rs1) immZ = address) : StoresTo i s rs2 address :=
  storesTo_of_address h (by rw [immStore_eq_immZ, haddr])

/-- Less than the immediate 0, signed, is negative (R178). -/
theorem aluSlt_immZ_eq_ite_neg (a : Word) : aluSlt a immZ = if a.toInt < 0 then 1#32 else 0#32 := by
  rw [aluSlt_eq, immZ, BitVec.toInt_zero]

/-! ### Stores that cannot fault (R178, R179, R184) -/

/-- A store that forms an address in the data space always completes. -/
theorem StoresTo.completes {i : Instr} {s : State} {rs2 : RegIdx} {a : Word} (h : StoresTo i s rs2 a)
    (ha : InDataSpace a) : ∃ t, exec i s = .next t ∧ StoredCell i s t a (s.reg rs2) :=
  h.1 ha

/-- The outcome of a comparison names cell 1 or cell 0. -/
theorem inDataSpace_comparison (P : Prop) [Decidable P] : InDataSpace (if P then 1#32 else 0#32) := by
  split
  case isTrue => decide
  case isFalse => decide

/-! ### The ten instructions -/

/-- Settles O46: adding, subtracting and combining with 0 leaves x[rs1] as it is. -/
theorem plainStoresUseRs1AsTheCell : Obligations.PlainStoresUseRs1AsTheCell :=
  fun _ _ _ _ _ =>
    ⟨packFields_fieldsR .., storesTo_of_slot rfl (aluAdd_immZ _),
      packFields_fieldsR .., bne_iff_ne, storesTo_of_slot rfl (aluSub_immZ _),
      packFields_fieldsR .., storesTo_of_slot rfl (aluXor_immZ _),
      packFields_fieldsR .., storesTo_of_slot rfl (aluOr_immZ _)⟩

/-- Settles O47: the shift amount is the number of the data register; only the right shifts are told apart, by funct7. -/
theorem shiftStoresUseTheShiftedBase : Obligations.ShiftStoresUseTheShiftedBase :=
  fun _ rs2 _ _ _ =>
    ⟨packFields_fieldsR .., storesTo_of_address rfl (aluShl_eq ..),
      packFields_fieldsR .., storesTo_of_address rfl (aluShr_eq ..),
      packFields_fieldsR .., bne_iff_ne, storesTo_of_address rfl (aluSar_eq ..),
      fun hneg => not_inDataSpace_of_neg_shifted hneg rs2⟩

/-- Settles O48: the address is the outcome of the comparison with 0, the ALU table's "other" row, or the combination with
0. -/
theorem swStoreF3StoreF7ReachOnlyCellsZeroAndOne : Obligations.SwStoreF3StoreF7ReachOnlyCellsZeroAndOne := by
  intro rs1 rs2 rd funct7 s
  have hsw : StoresTo (.sw rs1 rs2 rd funct7) s rs2 (if (s.reg rs1).toInt < 0 then 1#32 else 0#32) :=
    storesTo_of_slot rfl (aluSlt_immZ_eq_ite_neg _)
  have hf3 : StoresTo (.storeF3 rs1 rs2 rd funct7) s rs2 0#32 := storesTo_of_eq rfl
  have hf7 : StoresTo (.storeF7 rs1 rs2 rd funct7) s rs2 0#32 := storesTo_of_slot rfl (aluAnd_immZ _)
  exact ⟨packFields_fieldsR .., hsw.completes (inDataSpace_comparison _),
    packFields_fieldsR .., hf3.completes (by decide), packFields_fieldsR .., hf7.completes (by decide)⟩

end Sys2Proof.Machine
end

section
/-!
PROOFS. The statement about the words of no recognised class (spec/47_other_opcodes.md): SYSTEM, MISC-MEM and OTHER are each
one writeback of 0, so their frame is that of `writes_of_eq`; what is left is which opcodes are OTHER, and how many.
-/

namespace Sys2Proof.Machine

/-! ### The opcodes of OTHER (R192) -/

theorem other_wf_iff (opcode : BitVec 7) (rd : RegIdx) (hi : BitVec 20) :
    (Instr.other opcode rd hi).wf = true ↔ opcode ∉ namedOpcodes := by
  rw [Instr.wf, Bool.not_eq_true', List.contains_eq_mem, decide_eq_false_iff_not]

/-- The eleven classes in the order in which the statement lists them. -/
theorem namedOpcodes_perm :
    namedOpcodes.Perm
      [Config.opcLoad, Config.opcMiscMem, Config.opcOpImm, Config.opcAuipc, Config.opcStore, Config.opcOp, Config.opcLui,
        Config.opcBranch, Config.opcJalr, Config.opcJal, Config.opcSystem] := by decide

/-- As many numbers below 128 name an opcode of a list as the list has members, if no opcode stands in it twice. -/
theorem length_filter_range_contains {opcodes : List (BitVec 7)} (h : opcodes.Nodup) :
    ((List.range 128).filter fun n => opcodes.contains (BitVec.ofNat 7 n)).length = opcodes.length := by
  have hperm : ((List.range 128).filter fun n => opcodes.contains (BitVec.ofNat 7 n)).Perm (opcodes.map BitVec.toNat) := by
    rw [List.perm_ext_iff_of_nodup (List.nodup_range.filter _) (h.map fun _ _ => BitVec.eq_of_toNat_eq)]
    intro n
    simp only [List.mem_filter, List.mem_range, List.contains_eq_mem, decide_eq_true_eq, List.mem_map]
    constructor
    · rintro ⟨hn, hmem⟩
      exact ⟨_, hmem, (BitVec.toNat_ofNat n 7).trans (Nat.mod_eq_of_lt hn)⟩
    · rintro ⟨opcode, hmem, rfl⟩
      exact ⟨opcode.isLt, by rwa [BitVec.ofNat_toNat, BitVec.setWidth_eq]⟩
  rw [hperm.length_eq, List.length_map]

/-- The eleven numbers are distinct, so 117 of the 128 are left. -/
theorem length_filter_not_namedOpcodes :
    ((List.range 128).filter fun n => !namedOpcodes.contains (BitVec.ofNat 7 n)).length = 117 := by
  have hnamed := length_filter_range_contains (opcodes := namedOpcodes) (by decide)
  have hsplit := List.length_eq_length_filter_add (l := List.range 128)
    fun n => namedOpcodes.contains (BitVec.ofNat 7 n)
  rw [hnamed, List.length_range] at hsplit
  exact Nat.add_left_cancel hsplit.symm

/-- Settles O50: each of the three writes 0 back, and being well formed is being none of the eleven. -/
theorem unrecognisedWordsClearRd : Obligations.UnrecognisedWordsClearRd :=
  fun opcode rd hi _ =>
    ⟨packFields_fieldsHi .., writes_of_eq rfl,
      packFields_fieldsHi .., writes_of_eq rfl,
      packFields_fieldsHi .., writes_of_eq rfl,
      (other_wf_iff opcode rd hi).trans namedOpcodes_perm.mem_iff.not,
      length_filter_not_namedOpcodes⟩

end Sys2Proof.Machine
end

section
/-!
PROOFS. The statements about the host interface (spec/50_host_interface.md): what a step call reports and emits, the image,
auto-run, and the two host contexts.
-/

namespace Sys2Proof.Machine

/-! ### A step call by the state it leaves (R202, R204, R205) -/

/-- A step call reports and emits what the state that it leaves says. -/
theorem hostStep_eq (s : State) :
    hostStep s =
      { core := (hostStep s).core, reply := replyOf (hostStep s).core, notes := notificationsOf s (hostStep s).core } :=
  hostStep_of_step (step_hostStep_core s)

theorem replyOf_eq_executed_iff (t : State) : replyOf t = .executed ↔ t.runState = .running := by
  unfold replyOf
  cases t.runState <;> simp

/-- A step call reports executed exactly where it leaves the core Running (R202). -/
theorem hostStep_executed_iff (s : State) : (hostStep s).reply = .executed ↔ (hostStep s).core.runState = .running := by
  rw [hostStep_eq]
  exact replyOf_eq_executed_iff _

/-- A step from a terminal state leaves it (R91). -/
theorem step_of_not_running {s : State} (h : s.runState ≠ .running) : step s = .next s := by
  obtain ⟨t, ht⟩ := step_total s
  rwa [step_eq_of_not_running ht h] at ht

/-- A step call on a terminal state says which one it is, and does and emits nothing (R202, R222). -/
theorem hostStep_of_not_running {s : State} (h : s.runState ≠ .running) :
    hostStep s = { core := s, reply := replyOf s, notes := [] } := by
  rw [hostStep_of_step (step_of_not_running h), notificationsOf_of_not_running h]

/-! ### The published record (R204) -/

/-- A completed word's record holds the registers, the word's own fields, and the pc before the advance (R100, R204). -/
theorem complete_decode_snapshot (w : Word) (written : Option RegIdx) (s : State) :
    (complete (decode w) written s).snapshot =
      some { regs := s.x, dec := decodeRecord w, pc := s.pc, word := w, lastWritten := written } := by
  rw [complete_snapshot, encode_decode]

/-- A word that leaves the core Running published its record: the registers that it left, its own fields, the pc it was
fetched from, and the register it wrote (R100, R204, D12). -/
theorem WordEffect.published {w : Word} {s t : State} (h : WordEffect w s t) (ht : t.runState = .running) :
    t.snapshot = some
      { regs := t.x, dec := decodeRecord w, pc := s.pc, word := w,
        lastWritten := if (decodeRecord w).opcode = Config.opcStore then none else some (decodeRecord w).rd } := by
  cases h with
  | loaded hop => rw [if_neg (ne_store_of_load hop)]; exact complete_decode_snapshot ..
  | stored hop => rw [if_pos hop]; exact complete_decode_snapshot ..
  | computed _ hns => rw [if_neg hns]; exact complete_decode_snapshot ..
  | faulted => simp at ht

/-- Settles O52: the call reports executed exactly where the word left the core Running, and then it published its record;
otherwise the word took the fault. -/
theorem executedStepPublishesItsRecord : Obligations.ExecutedStepPublishesItsRecord := by
  intro s w hw
  have he := wordEffect_of_step hw (step_hostStep_core s)
  rw [Ne, hostStep_executed_iff, hostStep_eq]
  refine ⟨fun hrun => notificationsOf_of_running hw.1 hrun (he.published hrun), fun hrun => ?_⟩
  rcases he.published_or_faulted with ⟨hsame, -⟩ | ⟨a, hfault⟩
  · exact absurd (hsame.trans hw.1) hrun
  · rw [hfault]
    exact notificationsOf_takeFault s a

/-! ### Completion (R205) -/

theorem completion_mem_notificationsOf_iff (s t : State) :
    .completion ∈ notificationsOf s t ↔ s.runState = .running ∧ t.runState = .halted := by
  unfold notificationsOf
  cases s.runState <;> cases t.runState <;> simp

/-- Only the step that finds no word goes from Running to Halted (R91, R224). -/
theorem fetch_eq_none_of_halts {s t : State} (h : step s = .next t) (hs : s.runState = .running)
    (ht : t.runState = .halted) : s.fetch = none := by
  cases stepEffect_of_step h with
  | terminal hr => exact absurd hs hr
  | halts _ hf => exact hf
  | executes w hw he =>
    rcases he.pc_cases with ⟨hrun, -⟩ | ⟨⟨a, hfault⟩, -⟩
    · cases (hrun.trans hs).symm.trans ht
    · cases hfault.symm.trans ht

/-- Settles O53: the step that goes from Running to Halted found no word; it leaves a terminal state, in which the next call
emits nothing. -/
theorem completionIsEmittedOnlyByTheTransition : Obligations.CompletionIsEmittedOnlyByTheTransition := by
  intro s
  have hiff : .completion ∈ (hostStep s).notes ↔ s.runState = .running ∧ (hostStep s).core.runState = .halted := by
    rw [hostStep_eq]
    exact completion_mem_notificationsOf_iff s _
  refine ⟨hiff, fun hmem => ?_⟩
  obtain ⟨hs, ht⟩ := hiff.mp hmem
  rw [hostStep_of_unmapped hs (fetch_eq_none_of_halts (step_hostStep_core s) hs ht)]
  exact ⟨rfl, rfl, by rw [hostStep_of_not_running (by simp)]⟩

/-! ### The image (R200, R201) -/

theorem loadProgram_of_le {words : List Int} (h : words.length ≤ Config.progWordsMax) (s : State) :
    loadProgram words s = .next { s with imem := words.map wrap } :=
  if_pos (by rwa [List.length_map])

theorem loadProgram_of_lt {words : List Int} (h : Config.progWordsMax < words.length) (s : State) :
    loadProgram words s = .refused (.programTooLong words.length) := by
  simp [loadProgram, loadWords, h]

/-- `loadProgram` answers a state only for a list within the bound, and there it replaces the image. -/
theorem loadProgram_eq_next {words : List Int} {s t : State} (h : loadProgram words s = .next t) :
    words.length ≤ Config.progWordsMax ∧ t = { s with imem := words.map wrap } := by
  rcases le_or_gt words.length Config.progWordsMax with hle | hlt
  · rw [loadProgram_of_le hle] at h
    cases h
    exact ⟨hle, rfl⟩
  · rw [loadProgram_of_lt hlt] at h
    cases h

/-- Settles O54: the image is the list, wrapped, and word i of an image is mapped at 4i. -/
theorem loadProgramInstallsTheImage : Obligations.LoadProgramInstallsTheImage := by
  intro words s
  refine ⟨fun hle => ⟨_, loadProgram_of_le hle s, rfl, fun i => ?_, fun a ha => ?_⟩, fun hlt => loadProgram_of_lt hlt s⟩
  · simp [fetchAt_eq]
  · rw [fetchAt_eq, if_neg ha]

/-- Settles O55: pc is word pc / 4 of the new image, which has no such word where pc is at its end or beyond. -/
theorem replacedImageRunsFromTheSamePc : Obligations.ReplacedImageRunsFromTheSamePc := by
  intro words s t h halign
  obtain ⟨-, rfl⟩ := loadProgram_eq_next h
  have hfetch : State.fetch { s with imem := words.map wrap } = words[s.pc / 4]?.map wrap := by
    have hpc : s.pc = 4 * (s.pc / 4) := by omega
    exact (State.fetch_of_pc (s := { s with imem := words.map wrap }) hpc).trans List.getElem?_map
  refine ⟨rfl, hfetch, fun hr hend => step_of_unmapped hr ?_, fun hr => ⟨step_of_not_running hr, rfl⟩⟩
  rw [hfetch, List.getElem?_eq_none (by omega), Option.map_none]

/-! ### Auto-run and manual steps (R203, R206) -/

/-- A first step that answers a next state, then the others, on any machine. -/
theorem run_succ_of_step {M : Host.Core} {s t : M.State} (h : M.step s = .next t) (k : Nat) :
    M.run (k + 1) s = M.run k t := by
  simp only [Host.Core.run, h]

/-- A first manual step, then the others. -/
theorem core_run_succ (k : Nat) (s : State) : core.run (k + 1) s = core.run k (hostStep s).core :=
  run_succ_of_step (M := core) (step_hostStep_core s) k

/-- Manual steps in a terminal state leave it (R91). -/
theorem core_run_of_not_running {s : State} (h : s.runState ≠ .running) (k : Nat) : core.run k s = .next s := by
  induction k with
  | zero => rfl
  | succ k ih => rw [core_run_succ, hostStep_of_not_running h, ih]

/-- Settles O58: by induction on the steps; where auto-run stops early the state is terminal, and the other manual steps
leave it. -/
theorem autoRunEndsWhereManualStepsEnd : Obligations.AutoRunEndsWhereManualStepsEnd := by
  intro k
  induction k with
  | zero => exact fun _ => rfl
  | succ k ih =>
    intro s
    rw [core_run_succ]
    by_cases hx : (hostStep s).reply = .executed
    · rw [autoRun_of_executed hx, ih]
    · rw [autoRun_of_not_executed hx]
      exact core_run_of_not_running (mt (hostStep_executed_iff s).mpr hx) k

/-! ### The two host contexts (R206 to R209) -/

theorem System.workerMove_of_active {y : System} (h : y.worker = true) :
    y.workerMove =
      { system := { core := (hostStep y.core).core, worker := decide ((hostStep y.core).reply = .executed) }
        reply := (hostStep y.core).reply
        notes := (hostStep y.core).notes } :=
  if_pos h

theorem System.workerMove_of_idle {y : System} (h : y.worker = false) :
    y.workerMove = { system := y, reply := .returned, notes := [] } := by
  simp [System.workerMove, h]

/-- Settles O57: both contexts make the step call, and the worker goes on where that call reports executed. -/
theorem bothContextsTakeTheSameStep : Obligations.BothContextsTakeTheSameStep := by
  intro y hworker
  unfold System.move
  rw [System.workerMove_of_active hworker]
  exact ⟨rfl, rfl, rfl, hworker, decide_eq_true_iff.trans (hostStep_executed_iff y.core)⟩

/-- A rate is valid exactly where it is a finite number greater than 0 (R203, D21). -/
theorem Rate.valid_iff (rate : Rate) : rate.valid = true ↔ ∃ q : Rat, rate = .finite q ∧ 0 < q := by
  cases rate <;> simp [Rate.valid]

/-- Settles O56: `run` sets the worker where the rate is valid, leaves one that is set, and touches nothing else. -/
theorem runStartsAWorkerOnlyOnAValidRate : Obligations.RunStartsAWorkerOnlyOnAValidRate := by
  rintro ⟨core, worker⟩ rate
  refine ⟨rfl, rfl, fun hworker => ?_, fun hworker => ?_⟩
  · obtain rfl : worker = true := hworker
    rfl
  · obtain rfl : worker = false := hworker
    exact rate.valid_iff

/-! ### The invariant under every host move (R207, R210) -/

/-- A new image within the bound keeps the invariant (R200, D8). -/
theorem State.Inv.withImem {s : State} (h : s.Inv) {ws : List Word} (hlen : ws.length ≤ Config.progWordsMax) :
    State.Inv { s with imem := ws } := by
  obtain ⟨hpc, hmem, -, hfault, hsnap⟩ := h
  exact ⟨hpc, hmem, hlen, hfault, hsnap⟩

/-- The host's image is within the bound or refused, and a refused one leaves the core (R200, D8). -/
theorem System.load_inv {y : System} (h : y.core.Inv) (words : List Int) : (y.load words).system.core.Inv := by
  rcases le_or_gt words.length Config.progWordsMax with hle | hlt
  · rw [System.load, loadProgram_of_le hle]
    exact h.withImem (by rwa [List.length_map])
  · rwa [System.load, loadProgram_of_lt hlt]

/-- A step call keeps the invariant. -/
theorem hostStep_inv {s : State} (h : s.Inv) : (hostStep s).core.Inv := stepKeepsTheInvariant s _ h (step_hostStep_core s)

/-- Settles O17: a move replaces the image, or makes a step call, or leaves the core. -/
theorem hostMovesKeepTheInvariant : Obligations.HostMovesKeepTheInvariant := by
  intro y m h
  cases m with
  | loadProgram words => exact System.load_inv h words
  | step => exact hostStep_inv h
  | run rate => exact h
  | workerStep =>
    unfold System.move
    cases hworker : y.worker with
    | true => exact System.workerMove_of_active hworker ▸ hostStep_inv h
    | false => exact System.workerMove_of_idle hworker ▸ h

end Sys2Proof.Machine
end

section
/-!
PROOFS. The statement about the fault (spec/60_exceptions.md): which step takes it, and what that step and every later one do.
-/

namespace Sys2Proof.Machine

/-- The step call on a load or a store out of range takes the fault, reports it, and emits nothing (R222). -/
theorem hostStep_of_fault {w : Word} {s : State} (hw : s.executing w)
    (he : WordEffect w s (takeFault (executeStage (decodeRecord w) s) s)) :
    hostStep s =
      { core := takeFault (executeStage (decodeRecord w) s) s
        reply := .faulted (.memIndexOutOfRange (executeStage (decodeRecord w) s))
        notes := [] } := by
  rw [hostStep_of_step (step_of_wordEffect hw he), notificationsOf_takeFault]
  rfl

/-- Settles O23: a load or a store whose address names no cell has the fault as its effect, and leaves a terminal state; every
other effect leaves the core Running. -/
theorem onlyLoadsAndStoresFault : Obligations.OnlyLoadsAndStoresFault := by
  intro s w hw
  refine ⟨fun ⟨hop, hout⟩ => ?_, fun hnot => ?_⟩
  · have he : WordEffect w s _ := .faulted hop (inRange_of_not_inDataSpace hout)
    rw [hostStep_of_fault hw he, hostStep_of_not_running (by simp)]
    exact ⟨step_of_wordEffect hw he, rfl, rfl, rfl, rfl, rfl⟩
  · obtain ⟨t, ht⟩ := step_total s
    refine ⟨t, ht, ?_⟩
    cases wordEffect_of_step hw ht with
    | loaded | stored | computed => exact hw.1
    | faulted hop ha => exact absurd ⟨hop, fun hin => by simp [inRange_of_inDataSpace hin] at ha⟩ hnot

end Sys2Proof.Machine
end

section
/-!
PROOFS. The statement about the two readings of the jump-and-link-register immediate (spec/92_eei_decisions.md D2).
-/

namespace Sys2Proof.Machine

/-- Settles O31: twelve zero bits sign-extend to 0, the immediate of the other reading, and the sum of two words is the sum of
their signed values, wrapped. -/
theorem jalrReadingsAgreeOnZeroBits : Obligations.JalrReadingsAgreeOnZeroBits := by
  refine fun a imm12 => ⟨fun hzero => ?_, ?_⟩
  · rw [hzero]
    rfl
  · rw [jalrValue_eq, ← toInt_immI imm12]
    rfl

end Sys2Proof.Machine
end
